-- ==== Sys2Proof/Word.lean ====
section
/-! DEFINITION. Word.lean: the fixed-width words of the PSG core (00_scope.md R9, R11). -/

namespace Sys2Proof

/-- A byte of the command sequence, and a PSG write byte (30_encoding.md R70). -/
abbrev Byte := BitVec 8

/-- A channel slot 0..3: slots 0, 1, 2 are the squares, slot 3 the noise channel (10_state.md R20). -/
abbrev Slot := BitVec 2

/-- A volume register and an output level: an index 0..15 into VOL_TABLE (10_state.md R22, 41_advance_and_mix.md R124). -/
abbrev Level := BitVec 4

/-- A square channel's period register (10_state.md R23). -/
abbrev Period := BitVec 10

/-- The data of a register write, at most 6 bits (40_write_protocol.md R103). -/
abbrev WriteData := BitVec 6

/-- The noise shift register (10_state.md R27). -/
abbrev Lfsr := BitVec 16

end Sys2Proof
end

