-- ==== Sys2Proof/Syntax.lean ====
section
/-! DEFINITION. Syntax.lean: the instructions of both encoded levels (00_scope.md R14), one constructor for each row of
spec/opcode_table.json. DESIGN CHOICE (log 9, safe): the two rows of WAITS are two constructors. -/

namespace Sys2Proof

/-- The two encoded instruction sets (R14): the table's "level". -/
inductive EncodingLevel where
  /-- (a) the PSG write byte given to `writeRegister`. -/
  | psgWrite
  /-- (b) the command opcodes of the interpreter. -/
  | command
deriving DecidableEq, Repr

/-- The instructions, in the table's order. -/
inductive Instr where
  /-- `1000dddd` TONE_LO 0, d (R106). -/
  | toneLo0 (d : BitVec 4)
  /-- `1010dddd` TONE_LO 1, d (R106). -/
  | toneLo1 (d : BitVec 4)
  /-- `1100dddd` TONE_LO 2, d (R106). -/
  | toneLo2 (d : BitVec 4)
  /-- `1001dddd` VOL 0, d (R104). -/
  | vol0 (d : BitVec 4)
  /-- `1011dddd` VOL 1, d (R104). -/
  | vol1 (d : BitVec 4)
  /-- `1101dddd` VOL 2, d (R104). -/
  | vol2 (d : BitVec 4)
  /-- `1111dddd` VOL 3, d (R104). -/
  | vol3 (d : BitVec 4)
  /-- `1110xwmm` NOISE_CTRL w, m (R108); x is the ignored data bit 3 (R74), kept so that no bit of the byte is lost. -/
  | noiseCtrl (x : Bool) (w : Bool) (m : BitVec 2)
  /-- `0xdddddd` DATA d (R102); x is the ignored bit 6 (R72, R74). -/
  | data (x : Bool) (d : WriteData)
  /-- `01010000 bbbbbbbb` PSG b (R175). -/
  | psg (b : Byte)
  /-- `01100001 llllllll hhhhhhhh` WAIT n (R176), n = hhhhhhhhllllllll. -/
  | wait (n : BitVec 16)
  /-- `01100010` WAIT735 (R177). -/
  | wait735
  /-- `01100011` WAIT882 (R178). -/
  | wait882
  /-- `01100110` END (R179). -/
  | endMark
  /-- `01110nnn` WAITS n, the row of opcodes 0x70..0x77: n is the number of samples, 1..8 (R180). -/
  | waitsLow (n : Nat)
  /-- `0111100n` WAITS n, the row of opcodes 0x78..0x79: n is the number of samples, 9..10 (R180). -/
  | waitsHigh (n : Nat)
deriving DecidableEq, Repr

/-- The level of each row of the table. -/
def Instr.level : Instr → EncodingLevel
  | .toneLo0 _ | .toneLo1 _ | .toneLo2 _ => .psgWrite
  | .vol0 _ | .vol1 _ | .vol2 _ | .vol3 _ => .psgWrite
  | .noiseCtrl _ _ _ => .psgWrite
  | .data _ _ => .psgWrite
  | .psg _ | .wait _ => .command
  | .wait735 | .wait882 | .endMark => .command
  | .waitsLow _ | .waitsHigh _ => .command

/-- The length of each instruction in bytes (30_encoding.md R76, R79; a write byte is one byte, R70). -/
def Instr.length : Instr → Nat
  | .toneLo0 _ | .toneLo1 _ | .toneLo2 _ => 1
  | .vol0 _ | .vol1 _ | .vol2 _ | .vol3 _ => 1
  | .noiseCtrl _ _ _ => 1
  | .data _ _ => 1
  | .psg _ => 2
  | .wait _ => 3
  | .wait735 | .wait882 | .endMark => 1
  | .waitsLow _ | .waitsHigh _ => 1

end Sys2Proof
end

