-- ==== Sys2Proof/WellFormed.lean ====
section
/-! DEFINITION. WellFormed.lean: the operand ranges that the types of Instr's fields do not already say (30_encoding.md
R78, R82; 44_command_stream.md R180). Every other operand is a bit field of the table's width, so each of its values is one. -/

namespace Sys2Proof

/-- The check: WAITS n has n in 1..10, split at 8 between the table's two rows. -/
def Instr.check : Instr → Bool
  | .waitsLow n => decide (1 ≤ n) && decide (n ≤ 8)
  | .waitsHigh n => decide (9 ≤ n) && decide (n ≤ 10)
  | .toneLo0 _ | .toneLo1 _ | .toneLo2 _ => true
  | .vol0 _ | .vol1 _ | .vol2 _ | .vol3 _ => true
  | .noiseCtrl _ _ _ => true
  | .data _ _ => true
  | .psg _ | .wait _ => true
  | .wait735 | .wait882 | .endMark => true

/-- An instruction that the encoding admits. -/
abbrev Instr.wellFormed (i : Instr) : Prop := i.check = true

end Sys2Proof
end

