-- ==== Sys2Proof/Decode.lean ====
section
/-! DEFINITION. Decode.lean: the decoders of both levels, total on any bytes (30_encoding.md R70 to R81), the encoder
written from the same tables, and the opcode table as rows of match and mask. -/

namespace Sys2Proof

/-! ## The opcode table (R75, R78) -/

/-- One row: an opcode byte `b` is of the row when `b &&& mask = pattern`. -/
structure OpcodeRow where
  mnemonic : String
  pattern : Byte
  mask : Byte
deriving DecidableEq, Repr

def OpcodeRow.covers (r : OpcodeRow) (b : Byte) : Bool := b &&& r.mask == r.pattern

/-- The write byte map of R75. -/
def writeRows : List OpcodeRow :=
  [ ⟨"TONE_LO0", 0x80, 0xF0⟩, ⟨"TONE_LO1", 0xA0, 0xF0⟩, ⟨"TONE_LO2", 0xC0, 0xF0⟩,
    ⟨"VOL0", 0x90, 0xF0⟩, ⟨"VOL1", 0xB0, 0xF0⟩, ⟨"VOL2", 0xD0, 0xF0⟩, ⟨"VOL3", 0xF0, 0xF0⟩,
    ⟨"NOISE_CTRL", 0xE0, 0xF0⟩, ⟨"DATA", 0x00, 0x80⟩ ]

/-- The valid rows of the command opcode map of R78. -/
def commandRows : List OpcodeRow :=
  [ ⟨"PSG", 0x50, 0xFF⟩, ⟨"WAIT", 0x61, 0xFF⟩, ⟨"WAIT735", 0x62, 0xFF⟩, ⟨"WAIT882", 0x63, 0xFF⟩,
    ⟨"END", 0x66, 0xFF⟩, ⟨"WAITS", 0x70, 0xF8⟩, ⟨"WAITS", 0x78, 0xFE⟩ ]

/-- Each instruction's row of the table, by mnemonic. -/
def Instr.mnemonic : Instr → String
  | .toneLo0 _ => "TONE_LO0"
  | .toneLo1 _ => "TONE_LO1"
  | .toneLo2 _ => "TONE_LO2"
  | .vol0 _ => "VOL0"
  | .vol1 _ => "VOL1"
  | .vol2 _ => "VOL2"
  | .vol3 _ => "VOL3"
  | .noiseCtrl _ _ _ => "NOISE_CTRL"
  | .data _ _ => "DATA"
  | .psg _ => "PSG"
  | .wait _ => "WAIT"
  | .wait735 => "WAIT735"
  | .wait882 => "WAIT882"
  | .endMark => "END"
  | .waitsLow _ => "WAITS"
  | .waitsHigh _ => "WAITS"

/-! ## The PSG write byte (R70 to R75) -/

/-- The narrow data `d4 = b[3:0]` of a LATCH byte (R73). -/
def narrowData (b : Byte) : BitVec 4 := b.extractLsb' 0 4

/-- The wide data `d6 = b[5:0]` of a DATA byte (R73). -/
def wideData (b : Byte) : WriteData := b.extractLsb' 0 6

/-- The register address `r = b[6:4]` of a LATCH byte (R73, 10_state.md R37). -/
def registerAddress (b : Byte) : BitVec 3 := b.extractLsb' 4 3

/-- A LATCH byte's form, by its register address (R37, R71, R75). -/
def decodeLatch (b : Byte) : Instr :=
  let d := narrowData b
  match (registerAddress b).toNat with
  | 0 => .toneLo0 d
  | 1 => .vol0 d
  | 2 => .toneLo1 d
  | 3 => .vol1 d
  | 4 => .toneLo2 d
  | 5 => .vol2 d
  | 6 => .noiseCtrl (b[3]) (b[2]) (b.extractLsb' 0 2)
  | _ => .vol3 d

/-- The form of a PSG write byte: bit 7 tells LATCH from DATA, and no byte is illegal (R70). -/
def decodeWrite (b : Byte) : Instr :=
  if b[7] then decodeLatch b else .data (b[6]) (wideData b)

/-! ## The command opcodes (R76 to R81) -/

/-- Why bytes are no command. -/
inductive DecodeError where
  /-- There is no opcode byte. -/
  | noOpcode
  /-- The opcode is none of R78's valid rows. -/
  | unknownOpcode (op : Byte)
  /-- The operand of 0x50 or 0x61 is cut off. -/
  | operandCut
deriving DecidableEq, Repr

/-- Bytes as one unsigned number, the first byte the least significant (20_memory.md R52, R53). -/
def littleEndian : List Byte → Nat
  | [] => 0
  | b :: bs => b.toNat + 256 * littleEndian bs

/-- The operand of 0x50: the next byte, unchanged (R77). -/
def decodePsg : List Byte → Except DecodeError (Instr × List Byte)
  | b :: rest => .ok (.psg b, rest)
  | [] => .error .operandCut

/-- The operand of 0x61: the next two bytes, little-endian (R77). -/
def decodeWait : List Byte → Except DecodeError (Instr × List Byte)
  | lo :: hi :: rest => .ok (.wait (BitVec.ofNat 16 (littleEndian [lo, hi])), rest)
  | _ => .error .operandCut

/-- The command at the head of a byte list, and the bytes after it. The opcode's validity is settled before any operand
byte is looked at (R79, 60_exceptions.md R208). -/
def decodeCommand : List Byte → Except DecodeError (Instr × List Byte)
  | [] => .error .noOpcode
  | op :: rest =>
    if op = 0x50#8 then decodePsg rest
    else if op = 0x61#8 then decodeWait rest
    else if op = 0x62#8 then .ok (.wait735, rest)
    else if op = 0x63#8 then .ok (.wait882, rest)
    else if op = 0x66#8 then .ok (.endMark, rest)
    else if op &&& 0xF8#8 = 0x70#8 then .ok (.waitsLow ((narrowData op).toNat + 1), rest)
    else if op &&& 0xFE#8 = 0x78#8 then .ok (.waitsHigh ((narrowData op).toNat + 1), rest)
    else .error (.unknownOpcode op)

/-- The instruction of the named level at the head of a byte list, and the bytes after it. -/
def decodeAt : EncodingLevel → List Byte → Except DecodeError (Instr × List Byte)
  | .psgWrite, [] => .error .noOpcode
  | .psgWrite, b :: rest => .ok (decodeWrite b, rest)
  | .command, bs => decodeCommand bs

/-! ## The encoder (R71, R72, R75, R76, R82) -/

/-- A LATCH byte `1cctdddd`. -/
def latchByteOf (c : Slot) (t : Bool) (d : BitVec 4) : Byte := 1#1 ++ c ++ BitVec.ofBool t ++ d

/-- The bytes of an instruction. -/
def encode : Instr → List Byte
  | .toneLo0 d => [latchByteOf 0 false d]
  | .toneLo1 d => [latchByteOf 1 false d]
  | .toneLo2 d => [latchByteOf 2 false d]
  | .vol0 d => [latchByteOf 0 true d]
  | .vol1 d => [latchByteOf 1 true d]
  | .vol2 d => [latchByteOf 2 true d]
  | .vol3 d => [latchByteOf 3 true d]
  | .noiseCtrl x w m => [latchByteOf 3 false (BitVec.ofBool x ++ BitVec.ofBool w ++ m)]
  | .data x d => [0#1 ++ BitVec.ofBool x ++ d]
  | .psg b => [0x50, b]
  | .wait n => [0x61, n.extractLsb' 0 8, n.extractLsb' 8 8]
  | .wait735 => [0x62]
  | .wait882 => [0x63]
  | .endMark => [0x66]
  | .waitsLow n => [BitVec.ofNat 8 (0x70 + (n - 1))]
  | .waitsHigh n => [BitVec.ofNat 8 (0x70 + (n - 1))]

/-! ## Words as the opcode table numbers them -/

/-- The length of the longest instruction, 0x61's (R76). -/
def longestInstr : Nat := 3

/-- The bytes of a table word: byte k is bits 8k+7..8k, zero from bit `nbits` on, up to the longest instruction. -/
def tableBytes (nbits w : Nat) : List Byte :=
  [0, 1, 2].map fun k => if 8 * k < nbits then BitVec.ofNat 8 (w >>> (8 * k)) else 0

/-- The level at which a table word is read. DESIGN CHOICE (log 8, safe): a word whose first byte is a valid command opcode
is that command; any other word of one byte is a PSG write byte, since the table gives both levels. -/
def tableLevel (nbits w : Nat) : Option EncodingLevel :=
  match decodeCommand (tableBytes nbits w) with
  | .ok _ => some .command
  | .error _ => if nbits ≤ 8 then some .psgWrite else none

/-- The instruction the decoders read from a table word. -/
def decodeTableWord (nbits w : Nat) : Option Instr :=
  match tableLevel nbits w with
  | none => none
  | some lv =>
    match decodeAt lv (tableBytes nbits w) with
    | .ok (i, _) => some i
    | .error _ => none

/-- The bytes by which a table word reaches the interpreter: a command stands in the stream as it is; a PSG write byte is
the operand of command 0x50, the only way a write byte is executed (R77, 44_command_stream.md R175; log 8). -/
def streamBytes (nbits w : Nat) : List Byte :=
  match tableLevel nbits w with
  | some .psgWrite => 0x50 :: (tableBytes nbits w).take 2
  | _ => tableBytes nbits w

end Sys2Proof
end

