-- ==== Sys2Proof/Config.lean ====
section
/-! DEFINITION. Config.lean: the constants of 00_scope.md R9 and the parameters of R10.
DESIGN CHOICE (log 1, safe): the parameters are one plain record that State carries and no step changes, so that a
statement over every state is a statement over every VOL_TABLE, NOISE_PERIODS, OUTPUT_RATE and EXIT_CODE. -/

namespace Sys2Proof

/-! ## Constants of the source (R9) -/

/-- PRESCALE: the prescaler's reload constant. -/
def prescale : Int := 16

/-- LFSR_SEED: the initial shift register value. -/
def lfsrSeed : Lfsr := 0x8000#16

/-- WAIT_62: samples rendered by opcode 0x62. -/
def wait62 : Nat := 735

/-- WAIT_63: samples rendered by opcode 0x63. -/
def wait63 : Nat := 882

/-- The bound on lengths, offsets, totals and clocks the model admits (20_memory.md R51, D15). -/
def rangeBound : Nat := 2 ^ 31

/-! ## Parameters (R10) -/

/-- The error classes of 60_exceptions.md R200 that end a run fatally, the domain of EXIT_CODE (D16). -/
inductive ErrorClass where
  /-- E_CONTAINER: the log-loading collaborator's, before the core ever starts (R204). -/
  | container
  /-- E_CLOCK: ZeroClock (R201). -/
  | clock
  /-- E_OPCODE: UnknownOpcode (R202). -/
  | opcode
  /-- E_OVERRUN: StreamOverrun (R203). -/
  | overrun
deriving DecidableEq, Repr

/-- EXIT_CODE: the process status of each fatal class (R200). -/
structure ExitCodes where
  container : Nat
  clock : Nat
  opcode : Nat
  overrun : Nat
deriving DecidableEq, Repr

/-- EXIT_CODE as the map the spec calls it. -/
def ExitCodes.of (e : ExitCodes) : ErrorClass → Nat
  | .container => e.container
  | .clock => e.clock
  | .opcode => e.opcode
  | .overrun => e.overrun

/-- The parameters a model takes as arguments (R10). -/
structure Config where
  /-- VOL_TABLE: the attenuation table (41_advance_and_mix.md R126). -/
  volTable : Vector Nat 16
  /-- NOISE_PERIODS: the fixed noise periods of modes 0, 1, 2 (43_noise.md R153). -/
  noisePeriods : Vector Nat 3
  /-- OUTPUT_RATE: samples per second (44_command_stream.md R171). -/
  outputRate : Nat
  /-- EXIT_CODE. -/
  exitCodes : ExitCodes
deriving DecidableEq, Repr

/-- What the spec requires of the parameters: `VOL_TABLE[15]` is the maximum entry (R126), the rate is positive (R10),
each fatal class has a status of its own (60_exceptions.md R200). -/
abbrev Config.wf (cfg : Config) : Prop :=
  (∀ k : Fin 16, cfg.volTable[k] ≤ cfg.volTable[15]) ∧ 0 < cfg.outputRate ∧
    [cfg.exitCodes.container, cfg.exitCodes.clock, cfg.exitCodes.opcode, cfg.exitCodes.overrun].Nodup

/-- The largest of the three fixed noise periods, `max(NOISE_PERIODS)` (10_state.md R31). -/
def Config.maxNoisePeriod (cfg : Config) : Nat :=
  max cfg.noisePeriods[0] (max cfg.noisePeriods[1] cfg.noisePeriods[2])

/-- The bit length of a natural number, the `SAMPLE_W` measure of 41_advance_and_mix.md R128. -/
def bitLength (n : Nat) : Nat := if n = 0 then 0 else n.log2 + 1

/-- SAMPLE_W: the least width of a sample port, the bit length of `4 * VOL_TABLE[15]` (R128, D18). -/
def Config.sampleWidth (cfg : Config) : Nat := bitLength (4 * cfg.volTable[15])

/-- The defaults of R10 (D8, D9, D10).
DESIGN CHOICE (log 2, unsafe): R10 gives EXIT_CODE no default; the model names 1, 2, 3, 4 in the order of R200's table. -/
def Config.default : Config where
  volTable := #v[259, 326, 411, 517, 651, 819, 1031, 1298, 1634, 2057, 2590, 3261, 4105, 5168, 6506, 8191]
  noisePeriods := #v[0x10, 0x20, 0x40]
  outputRate := 44100
  exitCodes := { container := 1, clock := 2, opcode := 3, overrun := 4 }

end Sys2Proof
end

