-- ==== Sys2Proof/Machine/State.lean ====
section
/-! DEFINITION. Machine/State.lean: every piece of state of 10_state.md, as plain data, the reasons a step can stop, and
the state after reset (70_reset_and_hazards.md R230). -/

namespace Sys2Proof.Machine

/-! ## The chip (10_state.md sections 2 to 4) -/

/-- A square-wave channel, slots 0 to 2 (R22 to R25). -/
structure Square where
  /-- `sq[i].volume` (R22). -/
  volume : Level
  /-- `sq[i].periodReload` (R23). -/
  periodReload : Period
  /-- `sq[i].counter` (R24): signed, as the source has it (log 15). -/
  counter : Int
  /-- `sq[i].phase` (R25). -/
  phase : Bool
deriving DecidableEq, Repr

/-- The noise channel, slot 3 (R26 to R32). -/
structure Noise where
  /-- `nz.volume` (R26). -/
  volume : Level
  /-- `nz.lfsr` (R27). -/
  lfsr : Lfsr
  /-- `nz.mode` (R28). -/
  mode : BitVec 2
  /-- `nz.white` (R29). -/
  white : Bool
  /-- `nz.toggle` (R30). -/
  toggle : Bool
  /-- `nz.counter` (R31). -/
  counter : Int
  /-- `nz.phase` (R32). -/
  phase : Bool
deriving DecidableEq, Repr

/-- The core, the source's ChipState (R20): four channels, the write latch, the prescaler. -/
structure Chip where
  /-- `sq[0]`, `sq[1]`, `sq[2]`. -/
  sq : Vector Square 3
  /-- `nz`. -/
  nz : Noise
  /-- `core.latchCh` (R34). -/
  latchCh : Slot
  /-- `core.latchVol` (R35). -/
  latchVol : Bool
  /-- `core.div` (R36). -/
  div : Int
deriving DecidableEq, Repr

/-! ## The interpreter (10_state.md section 6) -/

/-- The fatal errors that a run of the core can end with (60_exceptions.md R200 to R203). `ContainerError` is not among
them: it is surfaced before the core ever starts (R204, log 18). -/
inductive RunError where
  /-- `ZeroClock` (R201). -/
  | zeroClock
  /-- `UnknownOpcode(op, pos)` (R202). -/
  | unknownOpcode (op : Byte) (pos : Nat)
  /-- `StreamOverrun(pos)` (R203). -/
  | streamOverrun (pos : Nat)
deriving DecidableEq, Repr

/-- The class of an error (R200). -/
def RunError.errorClass : RunError → ErrorClass
  | .zeroClock => .clock
  | .unknownOpcode _ _ => .opcode
  | .streamOverrun _ => .overrun

/-- `it.status` (R42). -/
inductive RunStatus where
  /-- DESIGN CHOICE (log 4, safe), the model's own: a log is handed over and the set-up of 70_reset_and_hazards.md R234
  has not run. -/
  | awaitingSetup
  /-- `Running`. -/
  | running
  /-- `Complete`: the declared total is reached. -/
  | complete
  /-- `EndMarker`: opcode 0x66 is reached. -/
  | endMarker
  /-- `Fault(e)`. -/
  | fault (e : RunError)
deriving DecidableEq, Repr

/-- The command byte sequence (20_memory.md R50): cells of (index, byte). An index that is not listed has no byte, which is
what R53 says of an index at or past the end (log 11). -/
abbrev Memory := List Host.Cell

/-- The machine: the chip, the interpreter, the inputs of the run (R43), the parameters (00_scope.md R10). -/
structure State where
  /-- The core. -/
  chip : Chip
  /-- `it.cursor` (R38), the program counter. -/
  cursor : Nat
  /-- `it.count` (R39). -/
  count : Nat
  /-- `it.total` (R40). -/
  total : Nat
  /-- `it.tps` (R40). -/
  tps : Nat
  /-- `it.buf` (R41), oldest sample first. -/
  buf : List Nat
  /-- `it.status` (R42). -/
  status : RunStatus
  /-- The input byte sequence (R43). -/
  stream : Memory
  /-- `CLOCK` in Hz (44_command_stream.md R170). -/
  clock : Nat
  /-- The data offset (44_command_stream.md R170). -/
  offset : Nat
  /-- The parameters (00_scope.md R10), which no step changes (log 1). -/
  cfg : Config
deriving DecidableEq, Repr

/-! ## Why a step stops -/

/-- The machine's faults. -/
inductive Fault where
  /-- Raised by `step` in a final status: only `Running` has a successor step (R42, 60_exceptions.md R207).
  Safe: the machine stops where the hardware has stopped (log 6). -/
  | runEnded
deriving DecidableEq, Repr

/-- What the machine gives no meaning. -/
inductive Refusal where
  /-- Raised by `exec` for an instruction without a meaning; no arm raises it. Safe. -/
  | notModelled (mnemonic : String)
  /-- Raised by the set-up for inputs of 2^31 or more (60_exceptions.md R205: "the model gives such a run no meaning rather
  than a fault or a value"). Safe. -/
  | outOfRange
deriving DecidableEq, Repr

/-- The outcome of one step. -/
abbrev Result := Host.Outcome State Fault Refusal

/-! ## Reset (70_reset_and_hazards.md R230) -/

/-- A square channel after reset (D4, log 12). -/
def Square.reset : Square := { volume := 0, periodReload := 0, counter := 0, phase := false }

/-- The noise channel after reset: the seed is the source's, the rest D4 (log 12). -/
def Noise.reset : Noise :=
  { volume := 0, lfsr := lfsrSeed, mode := 0, white := false, toggle := false, counter := 0, phase := false }

/-- The core after reset: the latch is D5, the prescaler D6 (log 12). -/
def Chip.reset : Chip :=
  { sq := #v[Square.reset, Square.reset, Square.reset], nz := Noise.reset, latchCh := 0, latchVol := false, div := prescale }

/-- The machine right after reset, with no log loaded.
DESIGN CHOICE (log 3, unsafe): the spec gives the inputs of a run no reset value; the stream is empty, the offset and the
total are 0, and the clock is 3579545, the clock of the spec's vectors, so that `tps` is 81. -/
def State.reset : State where
  chip := Chip.reset
  cursor := 0
  count := 0
  total := 0
  tps := 3579545 / 44100
  buf := []
  status := .running
  stream := []
  clock := 3579545
  offset := 0
  cfg := Config.default

end Sys2Proof.Machine
end

