-- ==== Sys2Proof/Machine/Operands.lean ====
section
/-! DEFINITION. Machine/Operands.lean: every form in which a write's data reaches a register (30_encoding.md R73, R74;
40_write_protocol.md R103 to R108), and the sample counts of the waits (R77). -/

namespace Sys2Proof.Machine

/-- Narrow data, zero-extended to the 6 bits of a write (R73, R100: `zext_6(b[3:0])`). -/
def widenNarrow (d : BitVec 4) : WriteData := d.setWidth 6

/-- The narrow data of NOISE_CTRL x, w, m: bits 3, 2 and 1..0 of the byte. -/
def noiseData (x w : Bool) (m : BitVec 2) : BitVec 4 := BitVec.ofBool x ++ BitVec.ofBool w ++ m

/-- A volume register takes the low 4 bits, narrow or wide (R105). -/
def volumeData (d : WriteData) : Level := d.extractLsb' 0 4

/-- A narrow period write: `periodReload[9:4] ++ d[3:0]` (R106). -/
def narrowPeriod (old : Period) (d : WriteData) : Period := old.extractLsb' 4 6 ++ d.extractLsb' 0 4

/-- A wide period write: `d[5:0] ++ periodReload[3:0]` (R107). -/
def widePeriod (old : Period) (d : WriteData) : Period := d ++ old.extractLsb' 0 4

/-- The period register after a write of either width (R103). -/
def periodData (old : Period) (d : WriteData) (wide : Bool) : Period :=
  if wide then widePeriod old d else narrowPeriod old d

/-- `nz.mode` takes data bits 1..0 (R108). -/
def modeData (d : WriteData) : BitVec 2 := d.extractLsb' 0 2

/-- The square channel of a slot: slots 0 to 2 are squares, slot 3 is none (R103, D2). -/
def squareOf (ch : Slot) : Option (Fin 3) := if h : ch.toNat < 3 then some ⟨ch.toNat, h⟩ else none

/-- The sample count of WAIT n, unsigned (R77, D13). -/
def waitCount (n : BitVec 16) : Nat := n.toNat

end Sys2Proof.Machine
end

