-- ==== Sys2Proof/Machine/Flags.lean ====
section
/-! DEFINITION. Machine/Flags.lean: the computation of every boolean of the machine (10_state.md R45): the phases, the noise
toggle, the white flag and the latch kind, and the tests that decide when they change. -/

namespace Sys2Proof.Machine

/-- The zero-crossing test `counter <= 0` (42_square.md R140; for the prescaler and the noise counter D7, C10; log 14). -/
def crossed (k : Int) : Bool := decide (k ≤ 0)

/-- `sq[i].phase` at a zero-crossing (R140). -/
def squarePhaseNext (phase : Bool) : Bool := !phase

/-- `nz.toggle` at a zero-crossing (43_noise.md R150). -/
def toggleNext (toggle : Bool) : Bool := !toggle

/-- `nz.phase` at a shift: bit 0 before the shift (R152 (a)). -/
def noisePhaseOf (lfsr : Lfsr) : Bool := lfsr[0]

/-- The feedback bit: bit 0 xor bit 3 in white mode, else bit 0 (R152 (b)). -/
def feedback (white : Bool) (lfsr : Lfsr) : Bool :=
  if white then lfsr[0] ^^ lfsr[3] else lfsr[0]

/-- `nz.white` takes data bit 2 (40_write_protocol.md R108). -/
def whiteData (d : WriteData) : Bool := d[2]

/-- `core.latchVol` of a LATCH byte: `b[4] == 1` (R100). -/
def latchVolData (b : Byte) : Bool := b[4]

/-- `core.latchCh` of a LATCH byte: `b[6:5]` (R100). -/
def latchChData (b : Byte) : Slot := b.extractLsb' 5 2

/-- The level a channel reports: its volume when the phase is true, else 15 (41_advance_and_mix.md R124). -/
def levelOf (phase : Bool) (volume : Level) : Level := if phase then volume else 15

end Sys2Proof.Machine
end

