-- ==== Sys2Proof/Machine/Ops.lean ====
section
/-! DEFINITION. Machine/Ops.lean: the named operations that the meanings share: reading the byte sequence, writing a
register, moving the cursor, entering an error. -/

namespace Sys2Proof.Machine

/-- `repeat n: body` of the pseudocode (00_scope.md R12). -/
def repeatDo {α : Type} (f : α → α) : Nat → α → α
  | 0, a => a
  | n + 1, a => repeatDo f n (f a)

/-! ## The command byte sequence (20_memory.md R50 to R53) -/

/-- The canonical form: the cells are those of indices 0, 1, .., len - 1 in order. No entry equals what an unlisted index
reads as, since that is no byte. -/
abbrev Memory.wf (m : Memory) : Prop := m.map Prod.fst = List.range m.length

/-- `len`, the length of the sequence. -/
def Memory.len (m : Memory) : Nat := m.length

/-- The byte at an index; an index that is not listed has none (log 11). -/
def Memory.read (m : Memory) (a : Nat) : Option Byte := m.lookup a

/-- The sequence that holds exactly these bytes from index 0 on. -/
def Memory.ofBytes (bs : List Byte) : Memory := bs.zipIdx.map fun p => (p.2, p.1)

/-- The bytes of a sequence in index order. -/
def Memory.toBytes (m : Memory) : List Byte := m.map Prod.snd

/-- The bytes at indices a, a + 1, .., at most n of them, up to the first index that has none. -/
def Memory.window (m : Memory) (a : Nat) : Nat → List Byte
  | 0 => []
  | n + 1 =>
    match m.read a with
    | some b => b :: Memory.window m (a + 1) n
    | none => []

/-- `MemRead(addr, n)` (R53): the bytes assembled little-endian, or `StreamOverrun(addr)` with nothing read. -/
def memRead (m : Memory) (addr n : Nat) : Except RunError Nat :=
  let bs := m.window addr n
  if bs.length = n then .ok (littleEndian bs) else .error (.streamOverrun addr)

/-- The sequence with bytes written over it from index `a` on, by the loader alone (no step writes the sequence, R63):
zeros stand below `a` where the sequence was shorter. -/
def Memory.place (m : Memory) (a : Nat) (bs : List Byte) : Memory :=
  let old := m.toBytes
  .ofBytes (old.take a ++ List.replicate (a - old.length) 0 ++ bs ++ old.drop (a + bs.length))

/-! ## Register writes (40_write_protocol.md R100 to R103) -/

/-- One square channel replaced by a function of it. -/
def Chip.updateSquare (c : Chip) (i : Fin 3) (f : Square → Square) : Chip :=
  { c with sq := c.sq.set i (f c.sq[i]) }

/-- `applyWrite(ch, vol, d, wide)` (R103). -/
def applyWrite (ch : Slot) (vol : Bool) (d : WriteData) (wide : Bool) (c : Chip) : Chip :=
  match vol, squareOf ch with
  | true, some i => c.updateSquare i fun q => { q with volume := volumeData d }
  | true, none => { c with nz := { c.nz with volume := volumeData d } }
  | false, some i => c.updateSquare i fun q => { q with periodReload := periodData q.periodReload d wide }
  | false, none => { c with nz := { c.nz with mode := modeData d, white := whiteData d } }

/-- A LATCH byte: the latch first, then the narrow write to the register it selects (R100, R101). -/
def latchWrite (ch : Slot) (vol : Bool) (d : BitVec 4) (c : Chip) : Chip :=
  applyWrite ch vol (widenNarrow d) false { c with latchCh := ch, latchVol := vol }

/-- A DATA byte: the wide write to the latched register (R102). -/
def dataWrite (d : WriteData) (c : Chip) : Chip := applyWrite c.latchCh c.latchVol d true c

/-- `writeRegister(b)` (R100). -/
def writeRegister (b : Byte) (c : Chip) : Chip :=
  if b[7] then latchWrite (latchChData b) (latchVolData b) (narrowData b) c
  else dataWrite (wideData b) c

/-- The register-file view of the chip: what the register at address r holds (10_state.md R37). No instruction reads it
(R21); statements do. -/
def registerView (r : BitVec 3) (c : Chip) : BitVec 10 :=
  match r.toNat with
  | 0 => c.sq[0].periodReload
  | 1 => c.sq[0].volume.setWidth 10
  | 2 => c.sq[1].periodReload
  | 3 => c.sq[1].volume.setWidth 10
  | 4 => c.sq[2].periodReload
  | 5 => c.sq[2].volume.setWidth 10
  | 6 => (BitVec.ofBool c.nz.white ++ c.nz.mode).setWidth 10
  | _ => c.nz.volume.setWidth 10

/-- The state of the write state machine, `latchCh << 1 | latchVol` (R111). -/
def latchAddress (c : Chip) : BitVec 3 := c.latchCh ++ BitVec.ofBool c.latchVol

/-! ## The interpreter -/

/-- A state whose chip is replaced by a function of it. -/
def State.onChip (s : State) (f : Chip → Chip) : State := { s with chip := f s.chip }

/-- `it.cursor <- it.cursor + n` (30_encoding.md R80). -/
def State.skip (s : State) (n : Nat) : State := { s with cursor := s.cursor + n }

/-- `Emit(v)`: v stands at index `it.count` of the buffer, then the count rises (20_memory.md R65). -/
def State.emit (s : State) (v : Nat) : State := { s with buf := s.buf ++ [v], count := s.count + 1 }

/-- Entering an error, `raise e`: `it.status <- Fault(e)` and nothing else; no state is saved and nothing is jumped to
(60_exceptions.md R206). There is no return from an error (R207), so no operation undoes this one. -/
def State.raise (s : State) (e : RunError) : State := { s with status := .fault e }

end Sys2Proof.Machine
end

