-- ==== Sys2Proof/Machine/Channels.lean ====
section
/-! DEFINITION. Machine/Channels.lean: the square channels (42_square.md) and the noise channel (43_noise.md). -/

namespace Sys2Proof.Machine

/-- The `clock()` of one square channel (R140). -/
def Square.clock (q : Square) : Square :=
  let k := q.counter - 1
  if crossed k then { q with phase := squarePhaseNext q.phase, counter := q.periodReload.toNat }
  else { q with counter := k }

/-- `squareClock(i)` (R140). -/
def squareClock (i : Fin 3) (c : Chip) : Chip := c.updateSquare i Square.clock

/-- The register after one shift: right by one, the feedback bit at bit 15 (R152 (c)). -/
def shiftRegister (white : Bool) (r : Lfsr) : Lfsr :=
  (r >>> 1) ||| ((BitVec.ofBool (feedback white r)).setWidth 16 <<< 15)

/-- `lfsrShift()`: phase and feedback are taken before the shift (R152). -/
def Noise.shift (n : Noise) : Noise :=
  { n with phase := noisePhaseOf n.lfsr, lfsr := shiftRegister n.white n.lfsr }

/-- What the noise counter is reloaded with: a fixed period in modes 0 to 2, the live period register of slot 2 in
mode 3 (R153, R154, C2). -/
def noiseReload (cfg : Config) (c : Chip) : Nat :=
  if h : c.nz.mode.toNat < 3 then cfg.noisePeriods[c.nz.mode.toNat] else c.sq[2].periodReload.toNat

/-- The `clock()` of the noise channel with its reload value given (R150). -/
def Noise.clock (reload : Nat) (n : Noise) : Noise :=
  let k := n.counter - 1
  if crossed k then
    let t := { n with toggle := toggleNext n.toggle }
    { (if t.toggle then t.shift else t) with counter := reload }
  else { n with counter := k }

/-- `noiseClock()` (R150). A clock does not write the mode or slot 2, so the reload value may be read first. -/
def noiseClock (cfg : Config) (c : Chip) : Chip := { c with nz := c.nz.clock (noiseReload cfg c) }

end Sys2Proof.Machine
end

