-- ==== Sys2Proof/Machine/Mixer.lean ====
section
/-! DEFINITION. Machine/Mixer.lean: the prescaler, the mixer and the rendering of samples (41_advance_and_mix.md;
44_command_stream.md R172). -/

namespace Sys2Proof.Machine

/-- `clockAll()`: the four channels once each, in slot order (R121, D17). -/
def clockAll (cfg : Config) (c : Chip) : Chip :=
  noiseClock cfg (squareClock 2 (squareClock 1 (squareClock 0 c)))

/-- One chip cycle: the body of `advance` (R120). -/
def chipCycle (cfg : Config) (c : Chip) : Chip :=
  let d := c.div - 1
  if crossed d then { clockAll cfg { c with div := d } with div := prescale } else { c with div := d }

/-- `advance(n)` (R120). -/
def advance (cfg : Config) (n : Nat) (c : Chip) : Chip := repeatDo (chipCycle cfg) n c

/-- `outputLevel(c)` of a slot (R124). -/
def outputLevel (ch : Slot) (c : Chip) : Level :=
  match squareOf ch with
  | some i => levelOf c.sq[i].phase c.sq[i].volume
  | none => levelOf c.nz.phase c.nz.volume

/-- The table entry of a level. -/
def tableEntry (cfg : Config) (l : Level) : Nat := cfg.volTable[l.toNat]'(l.isLt)

/-- `sample()`: the exact sum, never clamped, scaled or centred (R125, R127). -/
def sample (cfg : Config) (c : Chip) : Nat :=
  tableEntry cfg (outputLevel 0 c) + tableEntry cfg (outputLevel 1 c) +
    tableEntry cfg (outputLevel 2 c) + tableEntry cfg (outputLevel 3 c)

/-- The body of `render`: below the declared total, one `advance(it.tps)`, then one sample (R172, D11). -/
def renderOne (s : State) : State :=
  if s.count < s.total then
    let t := s.onChip (advance s.cfg s.tps)
    t.emit (sample t.cfg t.chip)
  else s

/-- `render(n)` (R172). -/
def render (n : Nat) (s : State) : State := repeatDo renderOne n s

end Sys2Proof.Machine
end

