-- ==== Sys2Proof/Machine/Command.lean ====
section
/-! DEFINITION. Machine/Command.lean: the meanings of the commands (44_command_stream.md R175 to R180). A command whose
operand is cut off never reaches its meaning: the fetch raises the error (R175, R176; Machine/Interp.lean). -/

namespace Sys2Proof.Machine

/-- `PSG b` (R175). -/
def execPsg (b : Byte) (s : State) : Result := .next ((s.onChip (writeRegister b)).skip 2)

/-- `WAIT n` (R176). -/
def execWait (n : BitVec 16) (s : State) : Result := .next ((render (waitCount n) s).skip 3)

/-- `WAIT735` (R177). -/
def execWait735 (s : State) : Result := .next ((render wait62 s).skip 1)

/-- `WAIT882` (R178). -/
def execWait882 (s : State) : Result := .next ((render wait63 s).skip 1)

/-- `END` (R179). The cursor stays: its advance is never observed (30_encoding.md R80; log 13). -/
def execEndMark (s : State) : Result := .next { s with status := .endMarker }

/-- `WAITS n`, opcodes 0x70..0x77 (R180). -/
def execWaitsLow (n : Nat) (s : State) : Result := .next ((render n s).skip 1)

/-- `WAITS n`, opcodes 0x78..0x79 (R180). -/
def execWaitsHigh (n : Nat) (s : State) : Result := .next ((render n s).skip 1)

end Sys2Proof.Machine
end

