-- ==== Sys2Proof/Machine/Write.lean ====
section
/-! DEFINITION. Machine/Write.lean: the meanings of the nine PSG write forms (40_write_protocol.md R102, R104 to R108).
A write form acts on the chip alone: the cursor is moved by the command that carries the byte (44_command_stream.md R175;
log 8). No form raises anything (R100). -/

namespace Sys2Proof.Machine

/-- `TONE_LO 0, d` (R106). -/
def execToneLo0 (d : BitVec 4) (s : State) : Result := .next (s.onChip (latchWrite 0 false d))

/-- `TONE_LO 1, d` (R106). -/
def execToneLo1 (d : BitVec 4) (s : State) : Result := .next (s.onChip (latchWrite 1 false d))

/-- `TONE_LO 2, d` (R106). -/
def execToneLo2 (d : BitVec 4) (s : State) : Result := .next (s.onChip (latchWrite 2 false d))

/-- `VOL 0, d` (R104). -/
def execVol0 (d : BitVec 4) (s : State) : Result := .next (s.onChip (latchWrite 0 true d))

/-- `VOL 1, d` (R104). -/
def execVol1 (d : BitVec 4) (s : State) : Result := .next (s.onChip (latchWrite 1 true d))

/-- `VOL 2, d` (R104). -/
def execVol2 (d : BitVec 4) (s : State) : Result := .next (s.onChip (latchWrite 2 true d))

/-- `VOL 3, d` (R104). -/
def execVol3 (d : BitVec 4) (s : State) : Result := .next (s.onChip (latchWrite 3 true d))

/-- `NOISE_CTRL w, m`, data bit 3 ignored (R108). -/
def execNoiseCtrl (x w : Bool) (m : BitVec 2) (s : State) : Result :=
  .next (s.onChip (latchWrite 3 false (noiseData x w m)))

/-- `DATA d`, bit 6 of the byte ignored (R102, R105, R107, R108). -/
def execData (_x : Bool) (d : WriteData) (s : State) : Result := .next (s.onChip (dataWrite d))

end Sys2Proof.Machine
end

