-- ==== Sys2Proof/Machine/Dispatch.lean ====
section
/-! DEFINITION. Machine/Dispatch.lean: one arm for each constructor of Instr. -/

namespace Sys2Proof.Machine

def exec (i : Instr) (s : State) : Host.Outcome State Fault Refusal :=
  match i with
  | .toneLo0 d => Sys2Proof.Machine.execToneLo0 d s
  | .toneLo1 d => Sys2Proof.Machine.execToneLo1 d s
  | .toneLo2 d => Sys2Proof.Machine.execToneLo2 d s
  | .vol0 d => Sys2Proof.Machine.execVol0 d s
  | .vol1 d => Sys2Proof.Machine.execVol1 d s
  | .vol2 d => Sys2Proof.Machine.execVol2 d s
  | .vol3 d => Sys2Proof.Machine.execVol3 d s
  | .noiseCtrl x w m => Sys2Proof.Machine.execNoiseCtrl x w m s
  | .data x d => Sys2Proof.Machine.execData x d s
  | .psg b => Sys2Proof.Machine.execPsg b s
  | .wait n => Sys2Proof.Machine.execWait n s
  | .wait735 => Sys2Proof.Machine.execWait735 s
  | .wait882 => Sys2Proof.Machine.execWait882 s
  | .endMark => Sys2Proof.Machine.execEndMark s
  | .waitsLow n => Sys2Proof.Machine.execWaitsLow n s
  | .waitsHigh n => Sys2Proof.Machine.execWaitsHigh n s

end Sys2Proof.Machine
end

