-- ==== Sys2Proof/Machine/Interp.lean ====
section
/-! DEFINITION. Machine/Interp.lean: how a run starts (44_command_stream.md R170, R171; 70_reset_and_hazards.md R234), how a
command is fetched, one step of a running interpreter (R173), and what the end of a run delivers (60_exceptions.md R209). -/

namespace Sys2Proof.Machine

/-! ## Set-up -/

/-- The four inputs of a run, from the log-loading collaborator (R170). -/
structure RunInput where
  /-- `bytes`. -/
  bytes : List Byte
  /-- `CLOCK`. -/
  clock : Nat
  /-- `it.total`. -/
  total : Nat
  /-- `offset`. -/
  offset : Nat
deriving DecidableEq, Repr

/-- The machine with parameters `cfg` and a log handed over: the next step is the set-up (log 4, log 5).
DESIGN CHOICE (log 24, unsafe): the spec gives `it.tps` from the start of a run on only (R171); until then, and after
ZeroClock, it is 0. The cursor, the count, the buffer and the chip are reset's until then (log 20). -/
def State.load (cfg : Config) (inp : RunInput) : State :=
  { State.reset with
    cfg := cfg, stream := .ofBytes inp.bytes, clock := inp.clock, total := inp.total, offset := inp.offset, tps := 0,
    status := .awaitingSetup }

/-- Every input is in the modelled range (R234 (1), D15). -/
def inRange (s : State) : Bool :=
  decide (s.stream.len < rangeBound) && decide (s.offset < rangeBound) &&
    decide (s.total < rangeBound) && decide (s.clock < rangeBound)

/-- Start of a run: the core in its reset state, the interpreter at the data offset (R171). -/
def startRun (s : State) : State :=
  { s with
    chip := Chip.reset, cursor := s.offset, count := 0, buf := [], tps := s.clock / s.cfg.outputRate, status := .running }

/-- The set-up: the range first, then the clock, then the start (R234, R208 (1) (2)). -/
def setup (s : State) : Result :=
  if inRange s then
    if s.clock = 0 then .next (s.raise .zeroClock) else .next (startRun s)
  else .refused .outOfRange

/-! ## One step of a running interpreter -/

/-- The command at the cursor, or the error that fetching it raises: no opcode byte, then an invalid opcode, then an
operand cut off, whose position is the first operand byte's (R175, R176, R202, R203, R208; log 10, log 16). -/
def fetch (s : State) : Except RunError Instr :=
  match decodeCommand (s.stream.window s.cursor longestInstr) with
  | .ok (i, _) => .ok i
  | .error .noOpcode => .error (.streamOverrun s.cursor)
  | .error (.unknownOpcode op) => .error (.unknownOpcode op s.cursor)
  | .error .operandCut => .error (.streamOverrun (s.cursor + 1))

/-- `step()` of R173: the total is tested before the fetch (D11). An error is entered, never half executed (R206). -/
def commandStep (s : State) : Result :=
  if s.total ≤ s.count then .next { s with status := .complete }
  else
    match fetch s with
    | .ok i => exec i s
    | .error e => .next (s.raise e)

/-! ## The end of a run -/

/-- A final status has no successor (10_state.md R42). -/
def RunStatus.isFinal : RunStatus → Bool
  | .awaitingSetup => false
  | .running => false
  | .complete => true
  | .endMarker => true
  | .fault _ => true

/-- The buffer that the output collaborator receives: only `Complete` and `EndMarker` deliver one (20_memory.md R65). -/
def delivered (s : State) : Option (List Nat) :=
  match s.status with
  | .complete => some s.buf
  | .endMarker => some s.buf
  | .awaitingSetup => none
  | .running => none
  | .fault _ => none

/-- The observation of a run: the final status and the delivered buffer (60_exceptions.md R209). -/
def observation (s : State) : RunStatus × Option (List Nat) := (s.status, delivered s)

/-- The process status of a run that ended in a fatal error (R200); the spec gives none for a normal end (R209). -/
def exitCode (s : State) : Option Nat :=
  match s.status with
  | .fault e => some (s.cfg.exitCodes.of e.errorClass)
  | .awaitingSetup => none
  | .running => none
  | .complete => none
  | .endMarker => none

end Sys2Proof.Machine
end

