-- ==== Sys2Proof/Machine/Step.lean ====
section
/-! DEFINITION. Machine/Step.lean: the one step relation (00_scope.md R8), and the load that places an instruction. -/

namespace Sys2Proof.Machine

/-- One step: the set-up of a log handed over, one command of a running interpreter, nothing in a final status
(10_state.md R42; log 6). -/
def step (s : State) : Host.Outcome State Fault Refusal :=
  match s.status with
  | .awaitingSetup => setup s
  | .running => commandStep s
  | .complete => .fault .runEnded
  | .endMarker => .fault .runEnded
  | .fault _ => .fault .runEnded

/-- `s` with the table word stored at the cursor, running, with a declared total not yet reached, so that the very next
step fetches and runs it (log 5, log 8). -/
def State.withFetchWord (s : State) (nbits w : Nat) : State :=
  { s with
    stream := s.stream.place s.cursor (streamBytes nbits w), total := max s.total (s.count + 1), status := .running }

end Sys2Proof.Machine
end

