-- ==== Sys2Proof/Machine/Run.lean ====
section
/-! DEFINITION. Machine/Run.lean: a run, step after step (44_command_stream.md R174; 60_exceptions.md R209). -/

namespace Sys2Proof.Machine

/-- Steps until the run ends, at most `fuel` of them (44_command_stream.md R174). -/
def runFor : Nat → State → Result
  | 0, s => .next s
  | fuel + 1, s =>
    if s.status.isFinal then .next s
    else
      match step s with
      | .next t => runFor fuel t
      | .fault r => .fault r
      | .refused r => .refused r

end Sys2Proof.Machine
end

