-- ==== Sys2Proof/Safety.lean ====
section
/-! DEFINITION. Safety.lean: what holds along every run, and the terms in which statements are made. -/

namespace Sys2Proof.Machine

/-- A running interpreter below its declared total: its next step fetches a command (44_command_stream.md R173). -/
abbrev Ready (s : State) : Prop := s.status = .running ∧ s.count < s.total

/-- The register a write goes to, by address (40_write_protocol.md R111); a wait or an end mark writes none. -/
def writeTarget (i : Instr) (c : Chip) : Option (BitVec 3) :=
  match i with
  | .toneLo0 _ => some 0
  | .vol0 _ => some 1
  | .toneLo1 _ => some 2
  | .vol1 _ => some 3
  | .toneLo2 _ => some 4
  | .vol2 _ => some 5
  | .noiseCtrl _ _ _ => some 6
  | .vol3 _ => some 7
  | .data _ _ => some (latchAddress c)
  | .psg b => some (if b[7] then registerAddress b else latchAddress c)
  | .wait _ => none
  | .wait735 => none
  | .wait882 => none
  | .endMark => none
  | .waitsLow _ => none
  | .waitsHigh _ => none

/-- The number of samples a wait asks for (R176 to R178, R180); no other instruction asks for any. -/
def waitSamples : Instr → Option Nat
  | .wait n => some n.toNat
  | .wait735 => some 735
  | .wait882 => some 882
  | .waitsLow n => some n
  | .waitsHigh n => some n
  | .toneLo0 _ | .toneLo1 _ | .toneLo2 _ => none
  | .vol0 _ | .vol1 _ | .vol2 _ | .vol3 _ => none
  | .noiseCtrl _ _ _ => none
  | .data _ _ => none
  | .psg _ => none
  | .endMark => none

/-- What the chip keeps between two chip cycles: the ranges of 10_state.md R24, R31, R36 and the nonzero shift register of
43_noise.md R158. -/
structure Chip.Inv (cfg : Config) (c : Chip) : Prop where
  div_low : 1 ≤ c.div
  div_high : c.div ≤ 16
  square_low : ∀ i : Fin 3, 0 ≤ c.sq[i].counter
  square_high : ∀ i : Fin 3, c.sq[i].counter ≤ 1023
  noise_low : 0 ≤ c.nz.counter
  noise_high : c.nz.counter ≤ (max 1023 cfg.maxNoisePeriod : Nat)
  lfsr_nonzero : c.nz.lfsr ≠ 0

/-- The machine invariant. -/
structure Inv (s : State) : Prop where
  params : s.cfg.wf
  chip : s.chip.Inv s.cfg
  /-- The byte sequence is in canonical form. -/
  stream : s.stream.wf
  /-- `it.count` is the length of `it.buf` (10_state.md R39). -/
  count_eq : s.count = s.buf.length
  /-- The buffer never exceeds the declared total (R41, C6). -/
  count_le : s.count ≤ s.total
  /-- Each sample is at most `4 * max(VOL_TABLE)` (R41). -/
  samples : ∀ v ∈ s.buf, v ≤ 4 * s.cfg.volTable[15]
  /-- Before the set-up no sample is rendered. -/
  unstarted : s.status = .awaitingSetup → s.count = 0
  /-- A running interpreter passed the set-up and stands between the data offset and the end (R38, 70_reset_and_hazards.md
  R234). -/
  started : s.status = .running →
    inRange s = true ∧ s.clock ≠ 0 ∧ s.tps = s.clock / s.cfg.outputRate ∧ s.offset ≤ s.cursor ∧
      s.cursor ≤ max s.offset s.stream.len
  /-- `Complete`: the buffer has `it.total` samples (60_exceptions.md R209). -/
  complete : s.status = .complete → s.count = s.total
  /-- `ZeroClock`: the clock is 0 and no sample was rendered (R201). -/
  zeroClock : s.status = .fault .zeroClock → s.clock = 0 ∧ s.count = 0
  /-- `UnknownOpcode` records the byte at the cursor and its index (R202). -/
  unknownOpcode : ∀ op pos, s.status = .fault (.unknownOpcode op pos) → pos = s.cursor ∧ s.stream.read pos = some op

end Sys2Proof.Machine
end

