-- ==== Sys2Proof/Certificates/Slice0/Obligations.lean ====
section
/-! DEFINITION. Certificates/Slice0/Obligations.lean: the statements for the provers. -/

open Sys2Proof Sys2Proof.Machine

/-! ## Encoding -/

/-- The decoder of an instruction's level inverts the encoder, for every well-formed instruction of both levels and
whatever bytes follow (30_encoding.md R70 to R78). -/
def Obligations.DecodeInvertsEncode : Prop :=
  ∀ (i : Instr) (rest : List Byte), i.wellFormed → decodeAt i.level (encode i ++ rest) = .ok (i, rest)

/-- What a decoder reads is well-formed, of its level, and its bytes are exactly those consumed. -/
def Obligations.EncodeInvertsDecode : Prop :=
  ∀ (lv : EncodingLevel) (bs rest : List Byte) (i : Instr), decodeAt lv bs = .ok (i, rest) →
    i.level = lv ∧ i.wellFormed ∧ bs = encode i ++ rest

/-- Each byte is of exactly the table's row whose instruction the decoder reads: one row for every write byte (R75), one row
for the valid opcodes and none for the others (R78). -/
def Obligations.DecodersFollowOpcodeTable : Prop :=
  (∀ b : Byte, (writeRows.filter fun r => r.covers b).map OpcodeRow.mnemonic = [(decodeWrite b).mnemonic]) ∧
  (∀ op : Byte, (commandRows.filter fun r => r.covers op).map OpcodeRow.mnemonic =
    match decodeCommand [op, 0, 0] with
    | .ok (i, _) => [i.mnemonic]
    | .error _ => [])

/-- Words written out from the spec's encodings (30_encoding.md R75, R76, R78; 40_write_protocol.md and
44_command_stream.md, the examples). -/
def Obligations.SpecWordsDecode : Prop :=
  decodeWrite 0b10000011 = .toneLo0 3 ∧ decodeWrite 0b10100101 = .toneLo1 5 ∧ decodeWrite 0b11001000 = .toneLo2 8 ∧
  decodeWrite 0b10011111 = .vol0 15 ∧ decodeWrite 0b10110000 = .vol1 0 ∧ decodeWrite 0b11011111 = .vol2 15 ∧
  decodeWrite 0b11110000 = .vol3 0 ∧ decodeWrite 0b11100111 = .noiseCtrl false true 3 ∧
  decodeWrite 0b11101001 = .noiseCtrl true false 1 ∧ decodeWrite 0b00101010 = .data false 0x2A ∧
  decodeWrite 0b01111111 = .data true 0x3F ∧
  decodeCommand [0x50, 0x9F] = .ok (.psg 0x9F, []) ∧ decodeCommand [0x61, 0x00, 0x01] = .ok (.wait 256, []) ∧
  decodeCommand [0x62] = .ok (.wait735, []) ∧ decodeCommand [0x63] = .ok (.wait882, []) ∧
  decodeCommand [0x66] = .ok (.endMark, []) ∧ decodeCommand [0x70] = .ok (.waitsLow 1, []) ∧
  decodeCommand [0x79] = .ok (.waitsHigh 10, []) ∧ decodeCommand [0x7A] = .error (.unknownOpcode 0x7A)

/-- R77: how the operand of each command at the cursor is assembled. -/
def Obligations.CommandOperandsAssemble : Prop :=
  ∀ (s : State) (op : Byte), s.stream.read s.cursor = some op →
    (∀ v, op = 0x50 → memRead s.stream (s.cursor + 1) 1 = .ok v → fetch s = .ok (.psg (BitVec.ofNat 8 v)) ∧ v < 2 ^ 8) ∧
    (∀ v, op = 0x61 → memRead s.stream (s.cursor + 1) 2 = .ok v → fetch s = .ok (.wait (BitVec.ofNat 16 v)) ∧ v < 2 ^ 16) ∧
    (0x70 ≤ op.toNat → op.toNat ≤ 0x79 → ∃ i, fetch s = .ok i ∧ waitSamples i = some ((op.extractLsb' 0 4).toNat + 1)) ∧
    (op = 0x62 → ∃ i, fetch s = .ok i ∧ waitSamples i = some 735) ∧
    (op = 0x63 → ∃ i, fetch s = .ok i ∧ waitSamples i = some 882)

/-! ## The command byte sequence -/

/-- MemRead of one byte is that byte, of two bytes is `lo | hi << 8`, and past the end it is an overrun at the first index
(20_memory.md R53; unsigned is the spec's decision D13). -/
def Obligations.MemReadAssemblesLittleEndian : Prop :=
  ∀ (m : Memory) (a : Nat), m.wf →
    (∀ b, m.read a = some b → memRead m a 1 = .ok b.toNat) ∧
    (∀ lo hi, m.read a = some lo → m.read (a + 1) = some hi → memRead m a 2 = .ok (lo.toNat ||| hi.toNat <<< 8)) ∧
    (m.len < a + 1 → memRead m a 1 = .error (.streamOverrun a)) ∧
    (m.len < a + 2 → memRead m a 2 = .error (.streamOverrun a))

/-! ## One step -/

/-- When the bytes at the cursor decode to a command and samples remain, the step is that command's exec at that state; the
step adds nothing around it, and the command itself moves the cursor (44_command_stream.md R173). -/
def Obligations.StepRunsDecodedCommand : Prop :=
  ∀ (s : State) (i : Instr) (rest : List Byte), Ready s →
    decodeCommand (s.stream.window s.cursor longestInstr) = .ok (i, rest) → step s = exec i s

/-- A word placed by the loader is what the next step runs: a command itself; a PSG write byte as the operand of command
0x50, whose effect is the write form's and two bytes of cursor. The model's choices, which the spec does not name:
`withFetchWord` stands for the load, raises the declared total above the count and sets the status Running (log 5); a word is
read as a command first, and a write byte is carried by 0x50 (log 8). -/
def Obligations.StepRunsLoadedTableWord : Prop :=
  ∀ (s : State) (nbits w : Nat) (i : Instr), decodeTableWord nbits w = some i →
    (i.level = .command → step (s.withFetchWord nbits w) = exec i (s.withFetchWord nbits w)) ∧
    (i.level = .psgWrite → ∃ t, exec i (s.withFetchWord nbits w) = .next t ∧
      step (s.withFetchWord nbits w) = .next { t with cursor := s.cursor + 2 })

/-- At the declared total a running interpreter completes, whatever stands at the cursor (R173, decision D11). -/
def Obligations.TotalReachedCompletes : Prop :=
  ∀ s : State, s.status = .running → s.total ≤ s.count → step s = .next { s with status := .complete }

/-- An opcode of none of R78's valid rows enters UnknownOpcode with the opcode and its index, and nothing else changes
(60_exceptions.md R202, R206). -/
def Obligations.InvalidOpcodeEntersFault : Prop :=
  ∀ (s : State) (op : Byte), Ready s → s.stream.read s.cursor = some op → (∀ r ∈ commandRows, r.covers op = false) →
    step s = .next { s with status := .fault (.unknownOpcode op s.cursor) }

/-- A missing opcode byte, or a missing operand byte of 0x50 or 0x61, enters StreamOverrun, and nothing else changes
(60_exceptions.md R203, decision D12; R175, R176). The index recorded where only the second operand byte of 0x61 is missing is
deduced (log 16). -/
def Obligations.MissingByteEntersOverrun : Prop :=
  ∀ s : State, Ready s →
    (s.stream.read s.cursor = none → step s = .next { s with status := .fault (.streamOverrun s.cursor) }) ∧
    (s.stream.read s.cursor = some 0x50 → s.stream.read (s.cursor + 1) = none →
      step s = .next { s with status := .fault (.streamOverrun (s.cursor + 1)) }) ∧
    (s.stream.read s.cursor = some 0x61 → (s.stream.read (s.cursor + 1) = none ∨ s.stream.read (s.cursor + 2) = none) →
      step s = .next { s with status := .fault (.streamOverrun (s.cursor + 1)) })

/-- No final status has a successor: Complete, EndMarker and every Fault(e) (10_state.md R42, 60_exceptions.md R207). That
the stop is called `runEnded` is the model's choice (log 6). -/
def Obligations.FinalStatusHasNoSuccessor : Prop :=
  ∀ s : State, (s.status = .complete ∨ s.status = .endMarker ∨ ∃ e, s.status = .fault e) → step s = .fault .runEnded

/-- Only Complete and EndMarker deliver the buffer (60_exceptions.md R209, 20_memory.md R65). -/
def Obligations.OnlyNormalEndsDeliver : Prop :=
  ∀ (s : State) (b : List Nat), delivered s = some b ↔ (s.status = .complete ∨ s.status = .endMarker) ∧ b = s.buf

/-- Errors of different classes end the process with different statuses (60_exceptions.md R200). -/
def Obligations.ErrorClassesHaveDistinctExitCodes : Prop :=
  ∀ (s t : State) (e f : RunError), s.cfg.wf → t.cfg = s.cfg → s.status = .fault e → t.status = .fault f →
    e.errorClass ≠ f.errorClass → exitCode s ≠ exitCode t

/-! ## Set-up and reset -/

/-- The set-up refuses inputs out of range first, then reports a zero clock, touching nothing else (70_reset_and_hazards.md
R234, 60_exceptions.md R205, R208; decisions D15, D25). That the set-up is a step is the model's choice (log 4). -/
def Obligations.SetupRefusesThenChecksClock : Prop :=
  ∀ s : State, s.status = .awaitingSetup →
    ((2 ^ 31 ≤ s.stream.len ∨ 2 ^ 31 ≤ s.offset ∨ 2 ^ 31 ≤ s.total ∨ 2 ^ 31 ≤ s.clock) → step s = .refused .outOfRange) ∧
    (s.stream.len < 2 ^ 31 → s.offset < 2 ^ 31 → s.total < 2 ^ 31 → s.clock = 0 →
      step s = .next { s with status := .fault .zeroClock })

/-- What the start of a run sets (44_command_stream.md R171; the bounds are decision D15). That the set-up is a step, taken in the
status `awaitingSetup`, is the model's choice (log 4). -/
def Obligations.SetupStartsRun : Prop :=
  ∀ s : State, s.status = .awaitingSetup → s.stream.len < 2 ^ 31 → s.offset < 2 ^ 31 → s.total < 2 ^ 31 →
    s.clock < 2 ^ 31 → s.clock ≠ 0 →
    step s = .next { s with
      chip := Chip.reset
      cursor := s.offset
      count := 0
      buf := []
      tps := s.clock / s.cfg.outputRate
      status := .running }

/-- The core's reset state: the seed and the prescaler are the source's values, the zeros the spec's decisions D4, D5, D6
(70_reset_and_hazards.md R230). -/
def Obligations.ResetState : Prop :=
  (∀ i : Fin 3, Chip.reset.sq[i] = { volume := 0, periodReload := 0, counter := 0, phase := false }) ∧
  Chip.reset.nz = { volume := 0, lfsr := 0x8000, mode := 0, white := false, toggle := false, counter := 0, phase := false } ∧
  Chip.reset.latchCh = 0 ∧ Chip.reset.latchVol = false ∧ Chip.reset.div = 16 ∧
  State.reset.chip = Chip.reset ∧ State.reset.cursor = State.reset.offset ∧ State.reset.count = 0 ∧ State.reset.buf = [] ∧
  State.reset.status = .running

/-- The mix of the reset state, and that of the first channel clock (R233, for every table). -/
def Obligations.FirstChannelClockMix : Prop :=
  ∀ cfg : Config, sample cfg Chip.reset = 4 * cfg.volTable[15] ∧
    sample cfg (advance cfg 16 Chip.reset) = 3 * cfg.volTable[0] + cfg.volTable[15]

/-! ## Register writes: results -/

/-- R106: TONE_LO latches (ch, period) and replaces the low 4 bits of the period register; nothing else changes. -/
def Obligations.ToneLatchWritesLowBits : Prop :=
  ∀ (s : State) (d : BitVec 4),
    let low (q : Square) : Square := { q with periodReload := q.periodReload.extractLsb' 4 6 ++ d }
    exec (.toneLo0 d) s =
      .next (s.onChip fun c => { c with latchCh := 0, latchVol := false, sq := c.sq.set 0 (low c.sq[0]) }) ∧
    exec (.toneLo1 d) s =
      .next (s.onChip fun c => { c with latchCh := 1, latchVol := false, sq := c.sq.set 1 (low c.sq[1]) }) ∧
    exec (.toneLo2 d) s =
      .next (s.onChip fun c => { c with latchCh := 2, latchVol := false, sq := c.sq.set 2 (low c.sq[2]) })

/-- R104: VOL latches (ch, volume) and sets the volume of the slot; nothing else changes. -/
def Obligations.VolumeLatchWritesVolume : Prop :=
  ∀ (s : State) (d : BitVec 4),
    let vol (q : Square) : Square := { q with volume := d }
    exec (.vol0 d) s =
      .next (s.onChip fun c => { c with latchCh := 0, latchVol := true, sq := c.sq.set 0 (vol c.sq[0]) }) ∧
    exec (.vol1 d) s =
      .next (s.onChip fun c => { c with latchCh := 1, latchVol := true, sq := c.sq.set 1 (vol c.sq[1]) }) ∧
    exec (.vol2 d) s =
      .next (s.onChip fun c => { c with latchCh := 2, latchVol := true, sq := c.sq.set 2 (vol c.sq[2]) }) ∧
    exec (.vol3 d) s =
      .next (s.onChip fun c => { c with latchCh := 3, latchVol := true, nz := { c.nz with volume := d } })

/-- R108: a noise control write, narrow or wide, sets mode and white flag, ignores the other data bits, and changes
nothing else but, for the LATCH byte, the latch. -/
def Obligations.NoiseControlWrite : Prop :=
  (∀ (s : State) (x w : Bool) (m : BitVec 2), exec (.noiseCtrl x w m) s =
    .next (s.onChip fun c => { c with latchCh := 3, latchVol := false, nz := { c.nz with mode := m, white := w } })) ∧
  (∀ (s : State) (x : Bool) (d : WriteData), s.chip.latchCh = 3 → s.chip.latchVol = false → exec (.data x d) s =
    .next (s.onChip fun c => { c with nz := { c.nz with mode := d.extractLsb' 0 2, white := d[2] } }))

/-- R105: DATA to a latched volume register writes the low 4 bits and changes nothing else. -/
def Obligations.DataWritesVolume : Prop :=
  ∀ (s : State) (x : Bool) (d : WriteData), s.chip.latchVol = true →
    (∀ i : Fin 3, s.chip.latchCh.toNat = i → exec (.data x d) s =
      .next (s.onChip fun c => { c with sq := c.sq.set i { c.sq[i] with volume := d.extractLsb' 0 4 } })) ∧
    (s.chip.latchCh = 3 → exec (.data x d) s =
      .next (s.onChip fun c => { c with nz := { c.nz with volume := d.extractLsb' 0 4 } }))

/-- R107: DATA to a latched period register replaces the high 6 bits, keeps the low 4, and changes nothing else. -/
def Obligations.DataWritesHighPeriodBits : Prop :=
  ∀ (s : State) (x : Bool) (d : WriteData) (i : Fin 3), s.chip.latchVol = false → s.chip.latchCh.toNat = i →
    exec (.data x d) s = .next (s.onChip fun c =>
      { c with sq := c.sq.set i { c.sq[i] with periodReload := d ++ c.sq[i].periodReload.extractLsb' 0 4 } })

/-- PSG b performs writeRegister(b) and moves the cursor past both bytes; nothing else changes (44_command_stream.md
R175). -/
def Obligations.PsgWritesRegister : Prop :=
  ∀ (s : State) (b : Byte),
    exec (.psg b) s = .next { s with chip := writeRegister b s.chip, cursor := s.cursor + 2 }

/-- The dispatch of writeRegister agrees with the nine write forms: PSG b completes, and it is exec of the form that b
decodes to, followed by the cursor's two bytes (40_write_protocol.md R100, 30_encoding.md R75). That a write form's own exec
leaves the cursor to the command that carries it is the model's choice (log 8). -/
def Obligations.PsgRefinesWriteForms : Prop :=
  ∀ (s : State) (b : Byte), ∃ t, exec (decodeWrite b) s = .next t ∧ exec (.psg b) s = .next { t with cursor := t.cursor + 2 }

/-! ## Register writes: laws of the protocol -/

/-- A LATCH period byte and a DATA byte, in either order, leave the 10-bit value whatever the old one (40_write_protocol.md,
split-write combination, which the spec derives from R106 and R107). -/
def Obligations.SplitWriteCombines : Prop :=
  ∀ (c : Chip) (i : Fin 3) (ch : Slot) (p : Period), ch.toNat = i →
    (dataWrite (p.extractLsb' 4 6) (latchWrite ch false (p.extractLsb' 0 4) c)).sq[i].periodReload = p ∧
    (c.latchCh = ch → c.latchVol = false →
      (latchWrite ch false (p.extractLsb' 0 4) (dataWrite (p.extractLsb' 4 6) c)).sq[i].periodReload = p)

/-- The same byte written twice leaves the state of writing it once (20_memory.md R58, which the spec derives). -/
def Obligations.RepeatedWriteIsIdempotent : Prop :=
  ∀ (b : Byte) (c : Chip), writeRegister b (writeRegister b c) = writeRegister b c

/-- The latch after any instruction: the register a write went to, else unchanged (R101; the write state machine, which the
spec derives from R100 and R101). -/
def Obligations.LatchFollowsWrites : Prop :=
  ∀ (i : Instr) (s t : State), exec i s = .next t →
    (∀ r, writeTarget i s.chip = some r → latchAddress t.chip = r) ∧
    (writeTarget i s.chip = none → t.chip.latchCh = s.chip.latchCh ∧ t.chip.latchVol = s.chip.latchVol)

/-- Frame of the eight registers: an instruction changes at most the register its write goes to; a wait and an end mark
change none (R110; 10_state.md R22, R23). -/
def Obligations.OnlyTargetRegisterChanges : Prop :=
  ∀ (i : Instr) (s t : State) (r : BitVec 3), exec i s = .next t → writeTarget i s.chip ≠ some r →
    registerView r t.chip = registerView r s.chip

/-- Frame of the hidden chip state and of the buffer: an instruction that is no wait (every write form, PSG, END) changes no
counter, no phase, no toggle, not the LFSR, not the prescaler, and renders nothing (R110, 43_noise.md R156). -/
def Obligations.WritesLeaveCountersAlone : Prop :=
  ∀ (i : Instr) (s t : State), waitSamples i = none → exec i s = .next t →
    (∀ k : Fin 3, t.chip.sq[k].counter = s.chip.sq[k].counter ∧ t.chip.sq[k].phase = s.chip.sq[k].phase) ∧
    t.chip.nz.counter = s.chip.nz.counter ∧ t.chip.nz.phase = s.chip.nz.phase ∧ t.chip.nz.toggle = s.chip.nz.toggle ∧
    t.chip.nz.lfsr = s.chip.nz.lfsr ∧ t.chip.div = s.chip.div ∧ t.buf = s.buf ∧ t.count = s.count

/-- Frame of the run's inputs and of memory: no instruction writes a byte of the sequence, the total, the ticks per sample,
the clock, the offset or the parameters (20_memory.md R50, R63; 10_state.md R40, R43). -/
def Obligations.ExecLeavesInputsAlone : Prop :=
  ∀ (i : Instr) (s t : State), exec i s = .next t →
    (∀ a, t.stream.read a = s.stream.read a) ∧ t.stream = s.stream ∧ t.total = s.total ∧ t.tps = s.tps ∧
    t.clock = s.clock ∧ t.offset = s.offset ∧ t.cfg = s.cfg

/-- The cursor moves by the length of the command (30_encoding.md R80); END leaves it (log 13), and a write form leaves it to
the command that carries it (log 8). Only END changes the status. -/
def Obligations.CursorAdvancesByLength : Prop :=
  ∀ (i : Instr) (s t : State), exec i s = .next t →
    (i.level = .command → i ≠ .endMark → t.cursor = s.cursor + i.length) ∧
    (i.level = .psgWrite ∨ i = .endMark → t.cursor = s.cursor) ∧ (i ≠ .endMark → t.status = s.status)

/-! ## Waits and the end mark -/

/-- WAIT n, WAIT735, WAIT882 and both rows of WAITS: m = min(n, total - count) samples are rendered, sample j + 1 of them being
the mix after (j + 1) * tps chip cycles; the cursor moves past the command; nothing else changes (44_command_stream.md R172,
R176 to R178, R180; the clamp is decision D11). -/
def Obligations.WaitsRenderClampedSamples : Prop :=
  ∀ (i : Instr) (n : Nat) (s : State), waitSamples i = some n →
    exec i s = .next { s with
      chip := advance s.cfg (min n (s.total - s.count) * s.tps) s.chip
      count := s.count + min n (s.total - s.count)
      buf := s.buf ++ (List.range (min n (s.total - s.count))).map fun j => sample s.cfg (advance s.cfg ((j + 1) * s.tps) s.chip)
      cursor := s.cursor + i.length }

/-- With tps = 0 a wait moves no chip cycle and repeats one sample (R184, decision D29). -/
def Obligations.ZeroTicksRepeatOneSample : Prop :=
  ∀ (i : Instr) (n : Nat) (s : State), waitSamples i = some n → s.tps = 0 →
    ∃ t, exec i s = .next t ∧ t.chip = s.chip ∧
      t.buf = s.buf ++ List.replicate (min n (s.total - s.count)) (sample s.cfg s.chip)

/-- END sets the status EndMarker, stops, and changes nothing else (44_command_stream.md R179). That the cursor too stays is
the model's choice (log 13): its advance is never observed (30_encoding.md R80). -/
def Obligations.EndMarkStopsRun : Prop :=
  (∀ s : State, exec .endMark s = .next { s with status := .endMarker }) ∧
  (∀ s : State, Ready s → s.stream.read s.cursor = some 0x66 → step s = .next { s with status := .endMarker })

/-! ## Prescaler and mixer -/

/-- The prescaler law: how often n chip cycles clock the channels and what the prescaler then holds (41_advance_and_mix.md,
prescaler law, which the spec derives from the definition of advance). -/
def Obligations.PrescalerLaw : Prop :=
  ∀ (cfg : Config) (n d : Nat) (c : Chip), 1 ≤ d → d ≤ 16 → c.div = d →
    advance cfg n c =
      { repeatDo (clockAll cfg) (if n < d then 0 else 1 + (n - d) / 16) c with
        div := if n < d then (d : Int) - n else 16 - ((n - d) % 16 : Nat) }

/-- The order in which the four channels are clocked is not observable (41_advance_and_mix.md, clock order, which the spec
derives): any two of the four clocks commute. -/
def Obligations.ChannelClocksCommute : Prop :=
  ∀ (cfg : Config) (c : Chip) (i j : Fin 3),
    squareClock i (squareClock j c) = squareClock j (squareClock i c) ∧
    squareClock i (noiseClock cfg c) = noiseClock cfg (squareClock i c)

/-- R124: the level a channel reports is its volume when its phase is true, else 15. -/
def Obligations.OutputLevelFollowsPhase : Prop :=
  ∀ c : Chip,
    (∀ (i : Fin 3) (ch : Slot), ch.toNat = i →
      (c.sq[i].phase = true → outputLevel ch c = c.sq[i].volume) ∧ (c.sq[i].phase = false → outputLevel ch c = 15)) ∧
    (c.nz.phase = true → outputLevel 3 c = c.nz.volume) ∧ (c.nz.phase = false → outputLevel 3 c = 15)

/-- The sample is the exact sum of four table entries (R125); with every channel silent by volume or phase it is four times the
entry 15, not zero (R127). -/
def Obligations.SampleIsUnnormalisedSum : Prop :=
  ∀ (cfg : Config) (c : Chip),
    sample cfg c = cfg.volTable[(outputLevel 0 c).toFin] + cfg.volTable[(outputLevel 1 c).toFin] +
      cfg.volTable[(outputLevel 2 c).toFin] + cfg.volTable[(outputLevel 3 c).toFin] ∧
    ((∀ i : Fin 3, c.sq[i].volume = 15 ∨ c.sq[i].phase = false) → (c.nz.volume = 15 ∨ c.nz.phase = false) →
      sample cfg c = 4 * cfg.volTable[15])

/-- Every sample is at most four times the maximum entry and fits a port of SAMPLE_W bits (41_advance_and_mix.md R125, R126,
R128, decision D18). -/
def Obligations.SampleFitsPort : Prop :=
  ∀ (cfg : Config) (c : Chip), cfg.wf → sample cfg c ≤ 4 * cfg.volTable[15] ∧ sample cfg c < 2 ^ cfg.sampleWidth

/-! ## Square channels -/

/-- R140: a square clock decrements, and at or below zero flips the phase and reloads; it changes nothing else. -/
def Obligations.SquareClockStep : Prop :=
  ∀ (i : Fin 3) (c : Chip),
    (c.sq[i].counter - 1 ≤ 0 → squareClock i c =
      { c with sq := c.sq.set i { c.sq[i] with phase := !c.sq[i].phase, counter := c.sq[i].periodReload.toNat } }) ∧
    (0 < c.sq[i].counter - 1 → squareClock i c =
      { c with sq := c.sq.set i { c.sq[i] with counter := c.sq[i].counter - 1 } })

/-- The toggle interval (42_square.md, toggle interval law and period 0, which the spec derives from R140): from a reload of R on,
n clocks toggle the phase n div max(R, 1) times and leave the counter R - n mod max(R, 1). -/
def Obligations.SquareToggleInterval : Prop :=
  ∀ (q : Square) (n : Nat), q.counter = q.periodReload.toNat →
    repeatDo Square.clock n q = { q with
      phase := q.phase ^^ decide (n / max q.periodReload.toNat 1 % 2 = 1)
      counter := (q.periodReload.toNat : Int) - (n % max q.periodReload.toNat 1 : Nat) }

/-- R142, lazy reload: a new period leaves the running count and the phase alone until the old count expires, and is loaded
then. -/
def Obligations.SquareReloadIsLazy : Prop :=
  ∀ (q : Square) (p : Period),
    (∀ j, j < max q.counter.toNat 1 →
      repeatDo Square.clock j { q with periodReload := p } = { repeatDo Square.clock j q with periodReload := p }) ∧
    repeatDo Square.clock (max q.counter.toNat 1) { q with periodReload := p } =
      { q with periodReload := p, phase := !q.phase, counter := p.toNat }

/-! ## Noise channel -/

/-- R150: a noise clock decrements; at a crossing (`<= 0`, decision D7) it flips the toggle, shifts only when the toggle becomes
true, and reloads; the reload is a fixed period in modes 0 to 2, else slot 2's period register (R153, R154). -/
def Obligations.NoiseClockStep : Prop :=
  ∀ (cfg : Config) (c : Chip) (p : Nat),
    ((∃ h : c.nz.mode.toNat < 3, p = cfg.noisePeriods[c.nz.mode.toNat]) ∨
      (c.nz.mode = 3 ∧ p = c.sq[2].periodReload.toNat)) →
    (0 < c.nz.counter - 1 → noiseClock cfg c = { c with nz := { c.nz with counter := c.nz.counter - 1 } }) ∧
    (c.nz.counter - 1 ≤ 0 → c.nz.toggle = false →
      noiseClock cfg c = { c with nz := { c.nz.shift with toggle := true, counter := p } }) ∧
    (c.nz.counter - 1 ≤ 0 → c.nz.toggle = true →
      noiseClock cfg c = { c with nz := { c.nz with toggle := false, counter := p } })

/-- R152, bit by bit: the phase is the old bit 0, every bit moves down one place, and bit 15 is the feedback: bit 0 xor bit 3 in
white mode, else bit 0. -/
def Obligations.LfsrShiftBitByBit : Prop :=
  ∀ n : Noise, n.shift.phase = n.lfsr[0] ∧ (∀ (k : Nat) (h : k < 15), n.shift.lfsr[k] = n.lfsr[k + 1]) ∧
    (n.white = true → n.shift.lfsr[15] = (n.lfsr[0] ^^ n.lfsr[3])) ∧ (n.white = false → n.shift.lfsr[15] = n.lfsr[0]) ∧
    n.shift.volume = n.volume ∧ n.shift.mode = n.mode ∧ n.shift.white = n.white ∧ n.shift.toggle = n.toggle ∧
    n.shift.counter = n.counter

/-- R154: the noise channel reads of slot 2 its period register and nothing else, so any slot 2 with that period gives the same
noise state. -/
def Obligations.NoiseBorrowsOnlyThePeriod : Prop :=
  ∀ (cfg : Config) (c : Chip) (q0 q1 q2 : Square), q2.periodReload = c.sq[2].periodReload →
    (noiseClock cfg { c with sq := #v[q0, q1, q2] }).nz = (noiseClock cfg c).nz

/-- The noise rate (43_noise.md, noise rate law, which the spec derives from R150 and R151): with a constant reload P the register is
still between crossings, and shifts exactly once in every 2 * max(P, 1) clocks. -/
def Obligations.NoiseShiftsOncePerTwoPeriods : Prop :=
  ∀ (n : Noise) (p : Nat), n.counter = p →
    repeatDo (Noise.clock p) (2 * max p 1) n = n.shift ∧
    (∀ k, k < max p 1 → (repeatDo (Noise.clock p) k n).lfsr = n.lfsr ∧ (repeatDo (Noise.clock p) k n).phase = n.phase)

/-- The periodic sequence (43_noise.md, periodic sequence law, which the spec derives from R152): 16 shifts rotate any register back,
and from the seed no fewer do, the phase being true at the 16th shift alone. -/
def Obligations.PeriodicSequenceRepeatsAfter16 : Prop :=
  (∀ r : Lfsr, repeatDo (shiftRegister false) 16 r = r) ∧
  (∀ k, k < 16 → repeatDo (shiftRegister false) k 0x8000#16 = 0x8000#16 >>> k ∧
    noisePhaseOf (repeatDo (shiftRegister false) k 0x8000#16) = decide (k = 15))

/-- The shift in either mode is a bijection that fixes 0, so a nonzero register stays nonzero, and 0 is the white mode's only fixed
point (43_noise.md, white sequence law, which the spec derives from R152). -/
def Obligations.ShiftIsBijectionFixingZero : Prop :=
  (∀ w : Bool, Function.Bijective (shiftRegister w) ∧ ∀ r, shiftRegister w r = 0 ↔ r = 0) ∧
  (∀ r : Lfsr, shiftRegister true r = r ↔ r = 0)

/-- The white sequence from the seed: it returns after exactly 57337 shifts, the phase is true at 28668 of them, false at the first 15
and true at the 16th (43_noise.md, white sequence law, which the spec computes from R152). -/
def Obligations.WhiteSequenceLength : Prop :=
  repeatDo (shiftRegister true) 57337 0x8000#16 = 0x8000#16 ∧
  (∀ k, 0 < k → k < 57337 → repeatDo (shiftRegister true) k 0x8000#16 ≠ 0x8000#16) ∧
  ((List.range 57337).filter fun k => noisePhaseOf (repeatDo (shiftRegister true) k 0x8000#16)).length = 28668 ∧
  (∀ k, k < 15 → noisePhaseOf (repeatDo (shiftRegister true) k 0x8000#16) = false) ∧
  noisePhaseOf (repeatDo (shiftRegister true) 15 0x8000#16) = true

/-! ## Whole-machine rules -/

/-- The invariant holds at reset. The reset inputs and parameters are the model's choice (log 1, log 2, log 3). -/
def Obligations.InvariantHoldsAtReset : Prop := Inv State.reset

/-- The invariant holds of a machine to which any log is handed over, under any admitted parameters (the hand-over: log 4,
log 5). -/
def Obligations.InvariantHoldsAtLoad : Prop := ∀ (cfg : Config) (inp : RunInput), cfg.wf → Inv (State.load cfg inp)

/-- Every step keeps the invariant: the canonical byte sequence, the ranges of the counters and the prescaler, the nonzero shift
register, the buffer's length and bound, the cursor's range, what a final status records. The set-up is a step by the
model's choice (log 4). -/
def Obligations.StepKeepsInvariant : Prop := ∀ s t : State, Inv s → step s = .next t → Inv t

/-- No step changes the run's inputs or the parameters: the byte sequence is never written (20_memory.md R63, 10_state.md R43). The
set-up is a step by the model's choice (log 4). -/
def Obligations.StepLeavesInputsAlone : Prop :=
  ∀ s t : State, step s = .next t →
    (∀ a, t.stream.read a = s.stream.read a) ∧ t.stream = s.stream ∧ t.total = s.total ∧ t.clock = s.clock ∧
    t.offset = s.offset ∧ t.cfg = s.cfg ∧ (s.status = .running → t.tps = s.tps)

/-- While a run lasts its buffer is append-only, and the count rises by the samples appended (10_state.md R39, R41; 20_memory.md
R65). -/
def Obligations.BufferIsAppendOnly : Prop :=
  ∀ s t : State, s.status = .running → step s = .next t → ∃ xs : List Nat, t.buf = s.buf ++ xs ∧ t.count = s.count + xs.length

/-- The cursor never moves backward and never by more than three bytes, and a step that leaves the run going moves it by at least
one (10_state.md R38, 44_command_stream.md R174). -/
def Obligations.CursorIsMonotone : Prop :=
  ∀ s t : State, s.status = .running → step s = .next t →
    s.cursor ≤ t.cursor ∧ t.cursor ≤ s.cursor + 3 ∧ (t.status = .running → s.cursor < t.cursor)

/-- Chip time (44_command_stream.md, chip time of a sample, which the spec derives): the chip has run count * tps cycles, as far as
the prescaler tells; every step of a running interpreter keeps that, and the start of a run establishes it.
That the start is a step is the model's choice (log 4). -/
def Obligations.PrescalerTracksChipTime : Prop :=
  (∀ s t : State, s.status = .awaitingSetup → step s = .next t → t.status = .running →
    t.chip.div = 16 - ((t.count * t.tps) % 16 : Nat)) ∧
  (∀ s t : State, s.status = .running → s.chip.div = 16 - ((s.count * s.tps) % 16 : Nat) → step s = .next t →
    t.chip.div = 16 - ((t.count * t.tps) % 16 : Nat))

/-- Termination (44_command_stream.md, termination, which the spec derives): a running interpreter reaches a final status within
len - cursor + 1 steps, and no step of it faults or is refused. -/
def Obligations.RunTerminates : Prop :=
  ∀ s : State, s.stream.wf → s.status = .running →
    ∃ t, runFor (s.stream.len - s.cursor + 1) s = .next t ∧ t.status.isFinal = true

/-- The end of a run from a log handed over: set-up and at most len - offset + 1 steps reach a final status; the buffer holds `count`
samples, at most the total, exactly the total if Complete; and each is at most 4 * VOL_TABLE[15] (60_exceptions.md R209).
The hand-over by `State.load` and the set-up as one step are the model's choices (log 4, log 5). -/
def Obligations.LoadedRunEndsWithinTotal : Prop :=
  ∀ (cfg : Config) (inp : RunInput), cfg.wf → inp.bytes.length < 2 ^ 31 → inp.offset < 2 ^ 31 → inp.total < 2 ^ 31 →
    inp.clock < 2 ^ 31 → inp.clock ≠ 0 →
    ∃ t, runFor (inp.bytes.length - inp.offset + 2) (State.load cfg inp) = .next t ∧ t.status.isFinal = true ∧
      t.buf.length = t.count ∧ t.count ≤ inp.total ∧ (t.status = .complete → t.buf.length = inp.total) ∧
      (∀ v ∈ t.buf, v ≤ 4 * cfg.volTable[15]) ∧ t.stream.toBytes = inp.bytes
end

