-- ==== Sys2Proof/Laws/State.lean ====
section
/-! SUPPORT. Laws/State.lean: one lemma for each field under each update of State and Chip, so that no proof unfolds one. -/

namespace Sys2Proof.Machine

/-! ## `State.onChip` -/
@[simp] theorem State.onChip_chip (s : State) (f : Chip → Chip) : (s.onChip f).chip = f s.chip := rfl
@[simp] theorem State.onChip_cursor (s : State) (f : Chip → Chip) : (s.onChip f).cursor = s.cursor := rfl
@[simp] theorem State.onChip_count (s : State) (f : Chip → Chip) : (s.onChip f).count = s.count := rfl
@[simp] theorem State.onChip_total (s : State) (f : Chip → Chip) : (s.onChip f).total = s.total := rfl
@[simp] theorem State.onChip_tps (s : State) (f : Chip → Chip) : (s.onChip f).tps = s.tps := rfl
@[simp] theorem State.onChip_buf (s : State) (f : Chip → Chip) : (s.onChip f).buf = s.buf := rfl
@[simp] theorem State.onChip_status (s : State) (f : Chip → Chip) : (s.onChip f).status = s.status := rfl
@[simp] theorem State.onChip_stream (s : State) (f : Chip → Chip) : (s.onChip f).stream = s.stream := rfl
@[simp] theorem State.onChip_clock (s : State) (f : Chip → Chip) : (s.onChip f).clock = s.clock := rfl
@[simp] theorem State.onChip_offset (s : State) (f : Chip → Chip) : (s.onChip f).offset = s.offset := rfl
@[simp] theorem State.onChip_cfg (s : State) (f : Chip → Chip) : (s.onChip f).cfg = s.cfg := rfl

/-! ## `State.skip` -/
@[simp] theorem State.skip_chip (s : State) (n : Nat) : (s.skip n).chip = s.chip := rfl
@[simp] theorem State.skip_cursor (s : State) (n : Nat) : (s.skip n).cursor = s.cursor + n := rfl
@[simp] theorem State.skip_count (s : State) (n : Nat) : (s.skip n).count = s.count := rfl
@[simp] theorem State.skip_total (s : State) (n : Nat) : (s.skip n).total = s.total := rfl
@[simp] theorem State.skip_tps (s : State) (n : Nat) : (s.skip n).tps = s.tps := rfl
@[simp] theorem State.skip_buf (s : State) (n : Nat) : (s.skip n).buf = s.buf := rfl
@[simp] theorem State.skip_status (s : State) (n : Nat) : (s.skip n).status = s.status := rfl
@[simp] theorem State.skip_stream (s : State) (n : Nat) : (s.skip n).stream = s.stream := rfl
@[simp] theorem State.skip_clock (s : State) (n : Nat) : (s.skip n).clock = s.clock := rfl
@[simp] theorem State.skip_offset (s : State) (n : Nat) : (s.skip n).offset = s.offset := rfl
@[simp] theorem State.skip_cfg (s : State) (n : Nat) : (s.skip n).cfg = s.cfg := rfl

/-! ## `State.emit` -/
@[simp] theorem State.emit_chip (s : State) (v : Nat) : (s.emit v).chip = s.chip := rfl
@[simp] theorem State.emit_cursor (s : State) (v : Nat) : (s.emit v).cursor = s.cursor := rfl
@[simp] theorem State.emit_count (s : State) (v : Nat) : (s.emit v).count = s.count + 1 := rfl
@[simp] theorem State.emit_total (s : State) (v : Nat) : (s.emit v).total = s.total := rfl
@[simp] theorem State.emit_tps (s : State) (v : Nat) : (s.emit v).tps = s.tps := rfl
@[simp] theorem State.emit_buf (s : State) (v : Nat) : (s.emit v).buf = s.buf ++ [v] := rfl
@[simp] theorem State.emit_status (s : State) (v : Nat) : (s.emit v).status = s.status := rfl
@[simp] theorem State.emit_stream (s : State) (v : Nat) : (s.emit v).stream = s.stream := rfl
@[simp] theorem State.emit_clock (s : State) (v : Nat) : (s.emit v).clock = s.clock := rfl
@[simp] theorem State.emit_offset (s : State) (v : Nat) : (s.emit v).offset = s.offset := rfl
@[simp] theorem State.emit_cfg (s : State) (v : Nat) : (s.emit v).cfg = s.cfg := rfl

/-! ## `State.raise` -/
@[simp] theorem State.raise_chip (s : State) (e : RunError) : (s.raise e).chip = s.chip := rfl
@[simp] theorem State.raise_cursor (s : State) (e : RunError) : (s.raise e).cursor = s.cursor := rfl
@[simp] theorem State.raise_count (s : State) (e : RunError) : (s.raise e).count = s.count := rfl
@[simp] theorem State.raise_total (s : State) (e : RunError) : (s.raise e).total = s.total := rfl
@[simp] theorem State.raise_tps (s : State) (e : RunError) : (s.raise e).tps = s.tps := rfl
@[simp] theorem State.raise_buf (s : State) (e : RunError) : (s.raise e).buf = s.buf := rfl
@[simp] theorem State.raise_status (s : State) (e : RunError) : (s.raise e).status = .fault e := rfl
@[simp] theorem State.raise_stream (s : State) (e : RunError) : (s.raise e).stream = s.stream := rfl
@[simp] theorem State.raise_clock (s : State) (e : RunError) : (s.raise e).clock = s.clock := rfl
@[simp] theorem State.raise_offset (s : State) (e : RunError) : (s.raise e).offset = s.offset := rfl
@[simp] theorem State.raise_cfg (s : State) (e : RunError) : (s.raise e).cfg = s.cfg := rfl

/-! ## `startRun` -/
@[simp] theorem startRun_chip (s : State) : (startRun s).chip = Chip.reset := rfl
@[simp] theorem startRun_cursor (s : State) : (startRun s).cursor = s.offset := rfl
@[simp] theorem startRun_count (s : State) : (startRun s).count = 0 := rfl
@[simp] theorem startRun_total (s : State) : (startRun s).total = s.total := rfl
@[simp] theorem startRun_tps (s : State) : (startRun s).tps = s.clock / s.cfg.outputRate := rfl
@[simp] theorem startRun_buf (s : State) : (startRun s).buf = [] := rfl
@[simp] theorem startRun_status (s : State) : (startRun s).status = .running := rfl
@[simp] theorem startRun_stream (s : State) : (startRun s).stream = s.stream := rfl
@[simp] theorem startRun_clock (s : State) : (startRun s).clock = s.clock := rfl
@[simp] theorem startRun_offset (s : State) : (startRun s).offset = s.offset := rfl
@[simp] theorem startRun_cfg (s : State) : (startRun s).cfg = s.cfg := rfl

/-! ## `Chip.updateSquare` -/

@[simp] theorem Chip.updateSquare_sq (c : Chip) (i : Fin 3) (f : Square → Square) :
    (c.updateSquare i f).sq = c.sq.set i (f c.sq[i]) := rfl
@[simp] theorem Chip.updateSquare_nz (c : Chip) (i : Fin 3) (f : Square → Square) : (c.updateSquare i f).nz = c.nz := rfl
@[simp] theorem Chip.updateSquare_latchCh (c : Chip) (i : Fin 3) (f : Square → Square) :
    (c.updateSquare i f).latchCh = c.latchCh := rfl
@[simp] theorem Chip.updateSquare_latchVol (c : Chip) (i : Fin 3) (f : Square → Square) :
    (c.updateSquare i f).latchVol = c.latchVol := rfl
@[simp] theorem Chip.updateSquare_div (c : Chip) (i : Fin 3) (f : Square → Square) : (c.updateSquare i f).div = c.div := rfl

/-- The updated square. -/
theorem Chip.updateSquare_same (c : Chip) (i : Fin 3) (f : Square → Square) :
    (c.updateSquare i f).sq[i] = f c.sq[i] := by simp

/-- The other squares stay. -/
theorem Chip.updateSquare_other (c : Chip) (i j : Fin 3) (f : Square → Square) (h : i ≠ j) :
    (c.updateSquare i f).sq[j] = c.sq[j] := by
  have : (i : Nat) ≠ j := fun e => h (Fin.ext e)
  simp [Vector.getElem_set_ne _ _ this]

/-! ## The slots -/

@[simp] theorem squareOf_zero : squareOf 0#2 = some 0 := rfl
@[simp] theorem squareOf_one : squareOf 1#2 = some 1 := rfl
@[simp] theorem squareOf_two : squareOf 2#2 = some 2 := rfl
@[simp] theorem squareOf_three : squareOf 3#2 = none := rfl

theorem squareOf_eq_some {ch : Slot} {i : Fin 3} (h : ch.toNat = i) : squareOf ch = some i := by
  unfold squareOf
  rw [dif_pos (by omega)]
  exact congrArg some (Fin.ext h)

end Sys2Proof.Machine
end

