-- ==== Sys2Proof/Laws/Ops.lean ====
section
/-! SUPPORT. Laws/Ops.lean: repetition, and what a register write does and leaves alone (40_write_protocol.md R100 to
R103, R110). -/

namespace Sys2Proof.Machine

/-! ## `repeatDo` -/

section Repeat
variable {α : Type} (f : α → α)

@[simp] theorem repeatDo_zero (a : α) : repeatDo f 0 a = a := rfl

theorem repeatDo_succ (n : Nat) (a : α) : repeatDo f (n + 1) a = repeatDo f n (f a) := rfl

theorem repeatDo_eq_iterate (n : Nat) (a : α) : repeatDo f n a = f^[n] a := by
  induction n generalizing a with
  | zero => rfl
  | succ n ih => rw [repeatDo_succ, ih, Function.iterate_succ_apply]

theorem repeatDo_add (m n : Nat) (a : α) : repeatDo f (m + n) a = repeatDo f n (repeatDo f m a) := by
  rw [Nat.add_comm, repeatDo_eq_iterate, repeatDo_eq_iterate, repeatDo_eq_iterate, Function.iterate_add_apply]

/-- The last repetition taken apart instead of the first. -/
theorem repeatDo_succ_last (n : Nat) (a : α) : repeatDo f (n + 1) a = f (repeatDo f n a) := repeatDo_add f n 1 a

/-- What every repetition keeps, all of them keep. -/
theorem repeatDo_keeps (P : α → Prop) (h : ∀ a, P a → P (f a)) (n : Nat) (a : α) (ha : P a) : P (repeatDo f n a) := by
  induction n generalizing a with
  | zero => exact ha
  | succ n ih => exact ih (f a) (h a ha)

/-- What no repetition changes, all of them leave unchanged. -/
theorem repeatDo_same {β : Type} (g : α → β) (h : ∀ a, g (f a) = g a) (n : Nat) (a : α) : g (repeatDo f n a) = g a :=
  repeatDo_keeps f (fun x => g x = g a) (fun x hx => (h x).trans hx) n a rfl

end Repeat

/-! ## `applyWrite`, by target (R103) -/

theorem applyWrite_volume_square {ch : Slot} {i : Fin 3} (h : squareOf ch = some i) (d : WriteData) (w : Bool) (c : Chip) :
    applyWrite ch true d w c = c.updateSquare i fun q => { q with volume := volumeData d } := by
  simp [applyWrite, h]

theorem applyWrite_volume_noise {ch : Slot} (h : squareOf ch = none) (d : WriteData) (w : Bool) (c : Chip) :
    applyWrite ch true d w c = { c with nz := { c.nz with volume := volumeData d } } := by
  simp [applyWrite, h]

theorem applyWrite_period {ch : Slot} {i : Fin 3} (h : squareOf ch = some i) (d : WriteData) (w : Bool) (c : Chip) :
    applyWrite ch false d w c =
      c.updateSquare i fun q => { q with periodReload := periodData q.periodReload d w } := by
  simp [applyWrite, h]

theorem applyWrite_noise {ch : Slot} (h : squareOf ch = none) (d : WriteData) (w : Bool) (c : Chip) :
    applyWrite ch false d w c = { c with nz := { c.nz with mode := modeData d, white := whiteData d } } := by
  simp [applyWrite, h]

/-- Everything a write can do: it changes the registers of one slot and nothing else. -/
theorem applyWrite_cases (ch : Slot) (vol : Bool) (d : WriteData) (w : Bool) (c : Chip) :
    (∃ i f, squareOf ch = some i ∧ applyWrite ch vol d w c = c.updateSquare i f ∧
      ∀ q, (f q).counter = q.counter ∧ (f q).phase = q.phase) ∨
    (∃ v m wh, squareOf ch = none ∧ applyWrite ch vol d w c =
      { c with nz := { c.nz with volume := v, mode := m, white := wh } }) := by
  cases hs : squareOf ch with
  | some i =>
    refine .inl ⟨i, ?_⟩
    cases vol
    · exact ⟨_, rfl, applyWrite_period hs d w c, fun q => ⟨rfl, rfl⟩⟩
    · exact ⟨_, rfl, applyWrite_volume_square hs d w c, fun q => ⟨rfl, rfl⟩⟩
  | none =>
    refine .inr ?_
    cases vol
    · exact ⟨c.nz.volume, _, _, rfl, applyWrite_noise hs d w c⟩
    · exact ⟨_, c.nz.mode, c.nz.white, rfl, applyWrite_volume_noise hs d w c⟩

/-! ## What a write leaves alone -/

section Frame
variable (ch : Slot) (vol : Bool) (d : WriteData) (w : Bool) (c : Chip)

@[simp] theorem applyWrite_div : (applyWrite ch vol d w c).div = c.div := by
  rcases applyWrite_cases ch vol d w c with ⟨i, f, -, h, -⟩ | ⟨v, m, wh, -, h⟩ <;> simp [h]

@[simp] theorem applyWrite_latchCh : (applyWrite ch vol d w c).latchCh = c.latchCh := by
  rcases applyWrite_cases ch vol d w c with ⟨i, f, -, h, -⟩ | ⟨v, m, wh, -, h⟩ <;> simp [h]

@[simp] theorem applyWrite_latchVol : (applyWrite ch vol d w c).latchVol = c.latchVol := by
  rcases applyWrite_cases ch vol d w c with ⟨i, f, -, h, -⟩ | ⟨v, m, wh, -, h⟩ <;> simp [h]

@[simp] theorem applyWrite_lfsr : (applyWrite ch vol d w c).nz.lfsr = c.nz.lfsr := by
  rcases applyWrite_cases ch vol d w c with ⟨i, f, -, h, -⟩ | ⟨v, m, wh, -, h⟩ <;> simp [h]

@[simp] theorem applyWrite_noiseCounter : (applyWrite ch vol d w c).nz.counter = c.nz.counter := by
  rcases applyWrite_cases ch vol d w c with ⟨i, f, -, h, -⟩ | ⟨v, m, wh, -, h⟩ <;> simp [h]

@[simp] theorem applyWrite_toggle : (applyWrite ch vol d w c).nz.toggle = c.nz.toggle := by
  rcases applyWrite_cases ch vol d w c with ⟨i, f, -, h, -⟩ | ⟨v, m, wh, -, h⟩ <;> simp [h]

@[simp] theorem applyWrite_noisePhase : (applyWrite ch vol d w c).nz.phase = c.nz.phase := by
  rcases applyWrite_cases ch vol d w c with ⟨i, f, -, h, -⟩ | ⟨v, m, wh, -, h⟩ <;> simp [h]

@[simp] theorem applyWrite_squareCounter (j : Fin 3) : (applyWrite ch vol d w c).sq[j].counter = c.sq[j].counter := by
  rcases applyWrite_cases ch vol d w c with ⟨i, f, -, h, hf⟩ | ⟨v, m, wh, -, h⟩ <;> rw [h]
  by_cases hij : i = j
  · subst hij; rw [Chip.updateSquare_same]; exact (hf _).1
  · rw [Chip.updateSquare_other _ _ _ _ hij]

@[simp] theorem applyWrite_squarePhase (j : Fin 3) : (applyWrite ch vol d w c).sq[j].phase = c.sq[j].phase := by
  rcases applyWrite_cases ch vol d w c with ⟨i, f, -, h, hf⟩ | ⟨v, m, wh, -, h⟩ <;> rw [h]
  by_cases hij : i = j
  · subst hij; rw [Chip.updateSquare_same]; exact (hf _).2
  · rw [Chip.updateSquare_other _ _ _ _ hij]

end Frame

/-! ## LATCH and DATA bytes (R100 to R102) -/

@[simp] theorem latchWrite_latchCh (ch : Slot) (vol : Bool) (d : BitVec 4) (c : Chip) :
    (latchWrite ch vol d c).latchCh = ch := by simp [latchWrite]

@[simp] theorem latchWrite_latchVol (ch : Slot) (vol : Bool) (d : BitVec 4) (c : Chip) :
    (latchWrite ch vol d c).latchVol = vol := by simp [latchWrite]

@[simp] theorem dataWrite_latchCh (d : WriteData) (c : Chip) : (dataWrite d c).latchCh = c.latchCh := by simp [dataWrite]

@[simp] theorem dataWrite_latchVol (d : WriteData) (c : Chip) : (dataWrite d c).latchVol = c.latchVol := by simp [dataWrite]

theorem writeRegister_latch {b : Byte} (h : b[7] = true) (c : Chip) :
    writeRegister b c = latchWrite (latchChData b) (latchVolData b) (narrowData b) c := if_pos h

theorem writeRegister_data {b : Byte} (h : b[7] = false) (c : Chip) :
    writeRegister b c = dataWrite (wideData b) c := by
  rw [writeRegister, h]
  rfl

/-- A write byte is one `applyWrite`, after the latch where it is a LATCH byte. -/
theorem writeRegister_cases (b : Byte) (c : Chip) :
    (∃ ch vol d, writeRegister b c = applyWrite ch vol d false { c with latchCh := ch, latchVol := vol }) ∨
    (∃ d, writeRegister b c = applyWrite c.latchCh c.latchVol d true c) := by
  cases h : b[7]
  · exact .inr ⟨_, writeRegister_data h c⟩
  · exact .inl ⟨_, _, _, writeRegister_latch h c⟩

end Sys2Proof.Machine
end

