-- ==== Sys2Proof/Laws/Channels.lean ====
section
/-! SUPPORT. Laws/Channels.lean: what one clock of a channel and one chip cycle can do, and what they leave alone
(41_advance_and_mix.md R120, R121; 42_square.md R140; 43_noise.md R150). -/

namespace Sys2Proof.Machine

/-! ## Squares -/

theorem Square.clock_crossing {q : Square} (h : q.counter ≤ 1) :
    q.clock = { q with phase := !q.phase, counter := q.periodReload.toNat } := by
  have : q.counter - 1 ≤ 0 := by omega
  simp [Square.clock, crossed, squarePhaseNext, this]

theorem Square.clock_running {q : Square} (h : 1 < q.counter) : q.clock = { q with counter := q.counter - 1 } := by
  have : ¬ q.counter - 1 ≤ 0 := by omega
  simp [Square.clock, crossed, this]

@[simp] theorem Square.clock_volume (q : Square) : q.clock.volume = q.volume := by
  unfold Square.clock; dsimp only; split <;> rfl

@[simp] theorem Square.clock_periodReload (q : Square) : q.clock.periodReload = q.periodReload := by
  unfold Square.clock; dsimp only; split <;> rfl

/-! ## Noise -/

theorem Noise.clock_running {n : Noise} (h : 1 < n.counter) (p : Nat) : n.clock p = { n with counter := n.counter - 1 } := by
  have : ¬ n.counter - 1 ≤ 0 := by omega
  simp [Noise.clock, crossed, this]

/-- A crossing that makes the toggle true shifts. -/
theorem Noise.clock_shifting {n : Noise} (h : n.counter ≤ 1) (ht : n.toggle = false) (p : Nat) :
    n.clock p = { n.shift with toggle := true, counter := p } := by
  have : n.counter - 1 ≤ 0 := by omega
  simp [Noise.clock, crossed, toggleNext, this, ht, Noise.shift]

/-- A crossing that makes the toggle false does not. -/
theorem Noise.clock_silent {n : Noise} (h : n.counter ≤ 1) (ht : n.toggle = true) (p : Nat) :
    n.clock p = { n with toggle := false, counter := p } := by
  have : n.counter - 1 ≤ 0 := by omega
  simp [Noise.clock, crossed, toggleNext, this, ht]

/-- Everything a noise clock can do. -/
theorem Noise.clock_cases (n : Noise) (p : Nat) :
    (1 < n.counter ∧ n.clock p = { n with counter := n.counter - 1 }) ∨
    (n.counter ≤ 1 ∧ n.toggle = false ∧ n.clock p = { n.shift with toggle := true, counter := p }) ∨
    (n.counter ≤ 1 ∧ n.toggle = true ∧ n.clock p = { n with toggle := false, counter := p }) := by
  by_cases h : 1 < n.counter
  · exact .inl ⟨h, Noise.clock_running h p⟩
  · have h' : n.counter ≤ 1 := by omega
    cases ht : n.toggle
    · exact .inr (.inl ⟨h', rfl, Noise.clock_shifting h' ht p⟩)
    · exact .inr (.inr ⟨h', rfl, Noise.clock_silent h' ht p⟩)

@[simp] theorem Noise.clock_volume (n : Noise) (p : Nat) : (n.clock p).volume = n.volume := by
  rcases n.clock_cases p with ⟨-, h⟩ | ⟨-, -, h⟩ | ⟨-, -, h⟩ <;> simp [h, Noise.shift]

@[simp] theorem Noise.clock_mode (n : Noise) (p : Nat) : (n.clock p).mode = n.mode := by
  rcases n.clock_cases p with ⟨-, h⟩ | ⟨-, -, h⟩ | ⟨-, -, h⟩ <;> simp [h, Noise.shift]

@[simp] theorem Noise.clock_white (n : Noise) (p : Nat) : (n.clock p).white = n.white := by
  rcases n.clock_cases p with ⟨-, h⟩ | ⟨-, -, h⟩ | ⟨-, -, h⟩ <;> simp [h, Noise.shift]

/-- A reload is a fixed period or a 10-bit register, so it is bounded (10_state.md R31). -/
theorem noiseReload_le (cfg : Config) (c : Chip) : noiseReload cfg c ≤ max 1023 cfg.maxNoisePeriod := by
  unfold noiseReload Config.maxNoisePeriod
  split
  · rename_i h
    generalize c.nz.mode.toNat = k at h ⊢
    match k, h with
    | 0, _ => simp
    | 1, _ => simp
    | 2, _ => simp
  · have := c.sq[2].periodReload.isLt
    omega

/-! ## The four clocks -/

@[simp] theorem squareClock_sq_self (i : Fin 3) (c : Chip) : (squareClock i c).sq[i] = c.sq[i].clock :=
  Chip.updateSquare_same c i _

theorem squareClock_sq_other {i j : Fin 3} (h : i ≠ j) (c : Chip) : (squareClock i c).sq[j] = c.sq[j] :=
  Chip.updateSquare_other c i j _ h

@[simp] theorem squareClock_nz (i : Fin 3) (c : Chip) : (squareClock i c).nz = c.nz := rfl

@[simp] theorem noiseClock_sq (cfg : Config) (c : Chip) : (noiseClock cfg c).sq = c.sq := rfl

@[simp] theorem clockAll_latchCh (cfg : Config) (c : Chip) : (clockAll cfg c).latchCh = c.latchCh := rfl

@[simp] theorem clockAll_latchVol (cfg : Config) (c : Chip) : (clockAll cfg c).latchVol = c.latchVol := rfl

@[simp] theorem clockAll_div (cfg : Config) (c : Chip) : (clockAll cfg c).div = c.div := rfl

/-- Each square is clocked once. -/
@[simp] theorem clockAll_sq (cfg : Config) (c : Chip) (i : Fin 3) : (clockAll cfg c).sq[i] = c.sq[i].clock := by
  match i with
  | 0 => simp [clockAll, squareClock, Chip.updateSquare]
  | 1 => simp [clockAll, squareClock, Chip.updateSquare]
  | 2 => simp [clockAll, squareClock, Chip.updateSquare]

/-- A clock does not write a period register, so the noise reload is the one before the clocks. -/
theorem noiseReload_squareClock (cfg : Config) (i : Fin 3) (c : Chip) :
    noiseReload cfg (squareClock i c) = noiseReload cfg c := by
  unfold noiseReload
  have h : (squareClock i c).sq[2].periodReload = c.sq[2].periodReload := by
    by_cases hi : i = 2
    · subst hi; exact (congrArg Square.periodReload (squareClock_sq_self 2 c)).trans (Square.clock_periodReload _)
    · exact congrArg Square.periodReload (squareClock_sq_other hi c)
  rw [squareClock_nz, h]

@[simp] theorem clockAll_nz (cfg : Config) (c : Chip) : (clockAll cfg c).nz = c.nz.clock (noiseReload cfg c) := by
  simp only [clockAll, noiseClock, noiseReload_squareClock, squareClock_nz]

/-! ## One chip cycle (R120) -/

theorem chipCycle_expiring {c : Chip} (h : c.div ≤ 1) (cfg : Config) :
    chipCycle cfg c = { clockAll cfg c with div := 16 } := by
  have : c.div - 1 ≤ 0 := by omega
  simp only [chipCycle, crossed, this, decide_true, if_true]
  rfl

theorem chipCycle_counting {c : Chip} (h : 1 < c.div) (cfg : Config) : chipCycle cfg c = { c with div := c.div - 1 } := by
  have : ¬ c.div - 1 ≤ 0 := by omega
  simp [chipCycle, crossed, this]

/-- Everything a chip cycle can do. -/
theorem chipCycle_cases (cfg : Config) (c : Chip) :
    (c.div ≤ 1 ∧ chipCycle cfg c = { clockAll cfg c with div := 16 }) ∨
    (1 < c.div ∧ chipCycle cfg c = { c with div := c.div - 1 }) := by
  by_cases h : c.div ≤ 1
  · exact .inl ⟨h, chipCycle_expiring h cfg⟩
  · exact .inr ⟨by omega, chipCycle_counting (by omega) cfg⟩

/-! ## What chip time leaves alone: the eight registers and the latch -/

section Frame
variable (cfg : Config) (n : Nat) (c : Chip)

@[simp] theorem advance_latchCh : (advance cfg n c).latchCh = c.latchCh :=
  repeatDo_same _ Chip.latchCh (fun a => by rcases chipCycle_cases cfg a with ⟨-, h⟩ | ⟨-, h⟩ <;> simp [h]) n c

@[simp] theorem advance_latchVol : (advance cfg n c).latchVol = c.latchVol :=
  repeatDo_same _ Chip.latchVol (fun a => by rcases chipCycle_cases cfg a with ⟨-, h⟩ | ⟨-, h⟩ <;> simp [h]) n c

@[simp] theorem advance_squareVolume (i : Fin 3) : (advance cfg n c).sq[i].volume = c.sq[i].volume :=
  repeatDo_same _ (fun a : Chip => a.sq[i].volume)
    (fun a => by rcases chipCycle_cases cfg a with ⟨-, h⟩ | ⟨-, h⟩ <;> simp only [h, clockAll_sq, Square.clock_volume]) n c

@[simp] theorem advance_periodReload (i : Fin 3) : (advance cfg n c).sq[i].periodReload = c.sq[i].periodReload :=
  repeatDo_same _ (fun a : Chip => a.sq[i].periodReload)
    (fun a => by
      rcases chipCycle_cases cfg a with ⟨-, h⟩ | ⟨-, h⟩ <;> simp only [h, clockAll_sq, Square.clock_periodReload]) n c

@[simp] theorem advance_noiseVolume : (advance cfg n c).nz.volume = c.nz.volume :=
  repeatDo_same _ (fun a : Chip => a.nz.volume)
    (fun a => by rcases chipCycle_cases cfg a with ⟨-, h⟩ | ⟨-, h⟩ <;> simp only [h, clockAll_nz, Noise.clock_volume]) n c

@[simp] theorem advance_mode : (advance cfg n c).nz.mode = c.nz.mode :=
  repeatDo_same _ (fun a : Chip => a.nz.mode)
    (fun a => by rcases chipCycle_cases cfg a with ⟨-, h⟩ | ⟨-, h⟩ <;> simp only [h, clockAll_nz, Noise.clock_mode]) n c

@[simp] theorem advance_white : (advance cfg n c).nz.white = c.nz.white :=
  repeatDo_same _ (fun a : Chip => a.nz.white)
    (fun a => by rcases chipCycle_cases cfg a with ⟨-, h⟩ | ⟨-, h⟩ <;> simp only [h, clockAll_nz, Noise.clock_white]) n c

end Frame

end Sys2Proof.Machine
end

