-- ==== Sys2Proof/Laws/Decode.lean ====
section
/-! SUPPORT. Laws/Decode.lean: the small lemmas of the well-formedness check and of the decoder. -/

namespace Sys2Proof

/-! ## Well-formedness -/

theorem wellFormed_waitsLow (n : Nat) : (Instr.waitsLow n).wellFormed ↔ 1 ≤ n ∧ n ≤ 8 := by
  simp [Instr.wellFormed, Instr.check]

theorem wellFormed_waitsHigh (n : Nat) : (Instr.waitsHigh n).wellFormed ↔ 9 ≤ n ∧ n ≤ 10 := by
  simp [Instr.wellFormed, Instr.check]

/-! ## The command at the head of a list, by opcode (30_encoding.md R78) -/

@[simp] theorem decodeCommand_nil : decodeCommand [] = .error .noOpcode := rfl
@[simp] theorem decodeCommand_psg (rest : List Byte) : decodeCommand (0x50#8 :: rest) = decodePsg rest := rfl
@[simp] theorem decodeCommand_wait (rest : List Byte) : decodeCommand (0x61#8 :: rest) = decodeWait rest := rfl
@[simp] theorem decodeCommand_wait735 (rest : List Byte) : decodeCommand (0x62#8 :: rest) = .ok (.wait735, rest) := rfl
@[simp] theorem decodeCommand_wait882 (rest : List Byte) : decodeCommand (0x63#8 :: rest) = .ok (.wait882, rest) := rfl
@[simp] theorem decodeCommand_endMark (rest : List Byte) : decodeCommand (0x66#8 :: rest) = .ok (.endMark, rest) := rfl

/-- A byte of none of the table's rows is an unknown opcode, whatever follows. -/
theorem decodeCommand_invalid (op : Byte) (h : ∀ r ∈ commandRows, r.covers op = false) (rest : List Byte) :
    decodeCommand (op :: rest) = .error (.unknownOpcode op) := by
  have none : ∀ op : Byte, (∀ r ∈ commandRows, r.covers op = false) →
      op ≠ 0x50#8 ∧ op ≠ 0x61#8 ∧ op ≠ 0x62#8 ∧ op ≠ 0x63#8 ∧ op ≠ 0x66#8 ∧ op &&& 0xF8#8 ≠ 0x70#8 ∧
        op &&& 0xFE#8 ≠ 0x78#8 := by decide
  obtain ⟨h1, h2, h3, h4, h5, h6, h7⟩ := none op h
  simp only [decodeCommand, h1, h2, h3, h4, h5, h6, h7, if_false]

end Sys2Proof
end

