-- ==== Sys2Proof/Laws/Memory.lean ====
section
/-! SUPPORT. Laws/Memory.lean: the command byte sequence: every operation keeps the canonical form, and what a read,
a window and MemRead answer (20_memory.md R53). -/

namespace Sys2Proof.Machine

/-! ## Canonical form -/

theorem Memory.ofBytes_wf (bs : List Byte) : (Memory.ofBytes bs).wf := by
  unfold Memory.wf Memory.ofBytes
  rw [List.map_map, List.range_eq_range', List.length_map, List.length_zipIdx]
  exact List.zipIdx_map_snd 0 bs

theorem Memory.place_wf (m : Memory) (a : Nat) (bs : List Byte) : (m.place a bs).wf :=
  Memory.ofBytes_wf _

theorem State.reset_stream_wf : State.reset.stream.wf := by decide

@[simp] theorem Memory.toBytes_ofBytes (bs : List Byte) : (Memory.ofBytes bs).toBytes = bs := by
  simp [Memory.ofBytes, Memory.toBytes, Function.comp_def, List.zipIdx_map_fst]

@[simp] theorem Memory.len_ofBytes (bs : List Byte) : (Memory.ofBytes bs).len = bs.length := by
  simp [Memory.ofBytes, Memory.len]

/-- A canonical sequence is its bytes, so equal sequences are equal data. -/
theorem Memory.ofBytes_toBytes (m : Memory) (h : m.wf) : Memory.ofBytes m.toBytes = m := by
  apply List.ext_getElem (by simp [Memory.ofBytes, Memory.toBytes])
  intro k h1 h2
  have hk : (m.map Prod.fst)[k]'(by simpa using h2) = k := by simp [h]
  have hk' : (m[k]'h2).1 = k := by simpa using hk
  simp only [Memory.ofBytes, Memory.toBytes, List.getElem_map, List.getElem_zipIdx]
  exact Prod.ext (by simp [hk']) rfl

/-! ## Reading -/

theorem lookup_zipIdx (bs : List Byte) (n a : Nat) :
    ((bs.zipIdx n).map fun p => (p.2, p.1)).lookup (n + a) = bs[a]? := by
  induction bs generalizing n a with
  | nil => simp
  | cons b bs ih =>
    cases a with
    | zero => simp
    | succ a =>
      have hne : ((n + (a + 1) : Nat) == n) = false := by simp
      have := ih (n + 1) a
      simp only [List.zipIdx_cons, List.map_cons, List.lookup_cons, hne, List.getElem?_cons_succ]
      rw [← this]
      congr 1
      omega

/-- A read of a sequence is the byte at that index, none at or past the end. -/
@[simp] theorem Memory.read_ofBytes (bs : List Byte) (a : Nat) : (Memory.ofBytes bs).read a = bs[a]? := by
  simpa [Memory.read, Memory.ofBytes] using lookup_zipIdx bs 0 a

theorem Memory.read_eq (m : Memory) (h : m.wf) (a : Nat) : m.read a = m.toBytes[a]? := by
  rw [← Memory.read_ofBytes, Memory.ofBytes_toBytes m h]

theorem Memory.read_isSome_iff (m : Memory) (h : m.wf) (a : Nat) : (m.read a).isSome ↔ a < m.len := by
  rw [Memory.read_eq m h]
  simp [Memory.toBytes, Memory.len]

theorem Memory.window_ofBytes (bs : List Byte) (a n : Nat) :
    (Memory.ofBytes bs).window a n = (bs.drop a).take n := by
  induction n generalizing a with
  | zero => simp [Memory.window]
  | succ n ih =>
    rw [Memory.window, Memory.read_ofBytes]
    by_cases ha : a < bs.length
    · rw [List.getElem?_eq_getElem ha, List.drop_eq_getElem_cons ha, List.take_succ_cons]
      exact congrArg _ (ih (a + 1))
    · have ha' := Nat.le_of_not_lt ha
      rw [List.getElem?_eq_none ha', List.drop_eq_nil_of_le ha', List.take_nil]

/-- A window holds the next bytes of the sequence, as many as there are. -/
theorem Memory.window_eq (m : Memory) (h : m.wf) (a n : Nat) : m.window a n = (m.toBytes.drop a).take n := by
  rw [← Memory.window_ofBytes, Memory.ofBytes_toBytes m h]

theorem Memory.window_length (m : Memory) (h : m.wf) (a n : Nat) : (m.window a n).length = min n (m.len - a) := by
  rw [Memory.window_eq m h]
  simp [Memory.toBytes, Memory.len]

/-- What the loader placed is what a window at that index reads. -/
theorem Memory.window_place (m : Memory) (a n : Nat) (bs : List Byte) (h : n ≤ bs.length) :
    (m.place a bs).window a n = bs.take n := by
  have e : a - min a m.toBytes.length - (a - m.toBytes.length) = 0 := by omega
  rw [Memory.place, Memory.window_ofBytes]
  simp only [List.append_assoc, List.drop_append, List.drop_take, List.drop_replicate, List.length_take,
    List.length_replicate, e]
  have e3 : a - m.toBytes.length - (a - min a m.toBytes.length) = 0 := by omega
  simp [e3, List.take_append_of_le_length h]

end Sys2Proof.Machine
end

