-- ==== Sys2Proof/Laws/PerInstr.lean ====
section
/-! SUPPORT. Laws/PerInstr.lean: the statements about every instruction as syntax, one lemma for each constructor. -/

namespace Sys2Proof.Laws.EncodeLength

/-- The encoder writes as many bytes as the instruction is long (30_encoding.md R76, R79). -/
def Statement (i : Instr) : Prop := (encode i).length = i.length

theorem toneLo0 (d : BitVec 4) : Statement (.toneLo0 d) := rfl
theorem toneLo1 (d : BitVec 4) : Statement (.toneLo1 d) := rfl
theorem toneLo2 (d : BitVec 4) : Statement (.toneLo2 d) := rfl
theorem vol0 (d : BitVec 4) : Statement (.vol0 d) := rfl
theorem vol1 (d : BitVec 4) : Statement (.vol1 d) := rfl
theorem vol2 (d : BitVec 4) : Statement (.vol2 d) := rfl
theorem vol3 (d : BitVec 4) : Statement (.vol3 d) := rfl
theorem noiseCtrl (x w : Bool) (m : BitVec 2) : Statement (.noiseCtrl x w m) := rfl
theorem data (x : Bool) (d : WriteData) : Statement (.data x d) := rfl
theorem psg (b : Byte) : Statement (.psg b) := rfl
theorem wait (n : BitVec 16) : Statement (.wait n) := rfl
theorem wait735 : Statement .wait735 := rfl
theorem wait882 : Statement .wait882 := rfl
theorem endMark : Statement .endMark := rfl
theorem waitsLow (n : Nat) : Statement (.waitsLow n) := rfl
theorem waitsHigh (n : Nat) : Statement (.waitsHigh n) := rfl

end Sys2Proof.Laws.EncodeLength
end

