-- ==== Sys2Proof/Laws/Render.lean ====
section
/-! SUPPORT. Laws/Render.lean: what rendering does to each field of State (44_command_stream.md R172). -/

namespace Sys2Proof.Machine

theorem renderOne_below {s : State} (h : s.count < s.total) :
    renderOne s = (s.onChip (advance s.cfg s.tps)).emit (sample s.cfg (advance s.cfg s.tps s.chip)) := if_pos h

theorem renderOne_done {s : State} (h : s.total ≤ s.count) : renderOne s = s := if_neg (Nat.not_lt.mpr h)

/-- Everything one pass of `render` can do. -/
theorem renderOne_cases (s : State) :
    (s.count < s.total ∧
      renderOne s = (s.onChip (advance s.cfg s.tps)).emit (sample s.cfg (advance s.cfg s.tps s.chip))) ∨
    (s.total ≤ s.count ∧ renderOne s = s) := by
  rcases Nat.lt_or_ge s.count s.total with h | h
  · exact .inl ⟨h, renderOne_below h⟩
  · exact .inr ⟨h, renderOne_done h⟩

@[simp] theorem render_zero (s : State) : render 0 s = s := rfl

theorem render_succ (n : Nat) (s : State) : render (n + 1) s = render n (renderOne s) := rfl

theorem render_succ_last (n : Nat) (s : State) : render (n + 1) s = renderOne (render n s) := repeatDo_succ_last _ n s

theorem render_add (m n : Nat) (s : State) : render (m + n) s = render n (render m s) := repeatDo_add _ m n s

/-- What one pass keeps, rendering keeps. -/
theorem render_keeps (P : State → Prop)
    (h : ∀ s, P s → s.count < s.total →
      P ((s.onChip (advance s.cfg s.tps)).emit (sample s.cfg (advance s.cfg s.tps s.chip))))
    (n : Nat) (s : State) (hs : P s) : P (render n s) :=
  repeatDo_keeps renderOne P
    (fun a ha => by rcases renderOne_cases a with ⟨hl, e⟩ | ⟨-, e⟩ <;> rw [e]; exacts [h a ha hl, ha]) n s hs

/-- What one pass leaves unchanged, rendering leaves unchanged. -/
theorem render_same {β : Type} (g : State → β)
    (h : ∀ s, g ((s.onChip (advance s.cfg s.tps)).emit (sample s.cfg (advance s.cfg s.tps s.chip))) = g s)
    (n : Nat) (s : State) : g (render n s) = g s :=
  render_keeps (fun a => g a = g s) (fun a ha _ => (h a).trans ha) n s rfl

section Frame
variable (n : Nat) (s : State)

@[simp] theorem render_cursor : (render n s).cursor = s.cursor := render_same State.cursor (fun _ => rfl) n s
@[simp] theorem render_total : (render n s).total = s.total := render_same State.total (fun _ => rfl) n s
@[simp] theorem render_tps : (render n s).tps = s.tps := render_same State.tps (fun _ => rfl) n s
@[simp] theorem render_status : (render n s).status = s.status := render_same State.status (fun _ => rfl) n s
@[simp] theorem render_stream : (render n s).stream = s.stream := render_same State.stream (fun _ => rfl) n s
@[simp] theorem render_clock : (render n s).clock = s.clock := render_same State.clock (fun _ => rfl) n s
@[simp] theorem render_offset : (render n s).offset = s.offset := render_same State.offset (fun _ => rfl) n s
@[simp] theorem render_cfg : (render n s).cfg = s.cfg := render_same State.cfg (fun _ => rfl) n s
@[simp] theorem render_latchCh : (render n s).chip.latchCh = s.chip.latchCh :=
  render_same (fun a => a.chip.latchCh) (fun a => advance_latchCh a.cfg a.tps a.chip) n s
@[simp] theorem render_latchVol : (render n s).chip.latchVol = s.chip.latchVol :=
  render_same (fun a => a.chip.latchVol) (fun a => advance_latchVol a.cfg a.tps a.chip) n s
@[simp] theorem render_squareVolume (i : Fin 3) : (render n s).chip.sq[i].volume = s.chip.sq[i].volume :=
  render_same (fun a => a.chip.sq[i].volume) (fun a => advance_squareVolume a.cfg a.tps a.chip i) n s
@[simp] theorem render_periodReload (i : Fin 3) : (render n s).chip.sq[i].periodReload = s.chip.sq[i].periodReload :=
  render_same (fun a => a.chip.sq[i].periodReload) (fun a => advance_periodReload a.cfg a.tps a.chip i) n s
@[simp] theorem render_noiseVolume : (render n s).chip.nz.volume = s.chip.nz.volume :=
  render_same (fun a => a.chip.nz.volume) (fun a => advance_noiseVolume a.cfg a.tps a.chip) n s
@[simp] theorem render_mode : (render n s).chip.nz.mode = s.chip.nz.mode :=
  render_same (fun a => a.chip.nz.mode) (fun a => advance_mode a.cfg a.tps a.chip) n s
@[simp] theorem render_white : (render n s).chip.nz.white = s.chip.nz.white :=
  render_same (fun a => a.chip.nz.white) (fun a => advance_white a.cfg a.tps a.chip) n s

end Frame

end Sys2Proof.Machine
end

