-- ==== Sys2Proof/Laws/Step.lean ====
section
/-! SUPPORT. Laws/Step.lean: what a step is, by the status, and everything a step that answers a next state can be
(44_command_stream.md R173; 70_reset_and_hazards.md R234). -/

namespace Sys2Proof.Machine

theorem step_awaitingSetup {s : State} (h : s.status = .awaitingSetup) : step s = setup s := by simp [step, h]

theorem step_running {s : State} (h : s.status = .running) : step s = commandStep s := by simp [step, h]

theorem commandStep_below {s : State} (h : s.count < s.total) :
    commandStep s = match fetch s with | .ok i => exec i s | .error e => .next (s.raise e) :=
  if_neg (Nat.not_le.mpr h)

theorem commandStep_done {s : State} (h : s.total ≤ s.count) : commandStep s = .next { s with status := .complete } :=
  if_pos h

/-- What a fetched command is: the head of the window at the cursor. -/
theorem fetch_ok {s : State} {i : Instr} :
    fetch s = .ok i ↔ ∃ rest, decodeCommand (s.stream.window s.cursor longestInstr) = .ok (i, rest) := by
  unfold fetch
  split <;> simp_all

/-- The error of a fetch. -/
theorem fetch_error {s : State} {e : RunError} :
    fetch s = .error e ↔
      (decodeCommand (s.stream.window s.cursor longestInstr) = .error .noOpcode ∧ e = .streamOverrun s.cursor) ∨
      (∃ op, decodeCommand (s.stream.window s.cursor longestInstr) = .error (.unknownOpcode op) ∧
        e = .unknownOpcode op s.cursor) ∨
      (decodeCommand (s.stream.window s.cursor longestInstr) = .error .operandCut ∧ e = .streamOverrun (s.cursor + 1)) := by
  unfold fetch
  cases decodeCommand (s.stream.window s.cursor longestInstr) with
  | ok p => simp
  | error d => cases d <;> simp [eq_comm]

/-- A step that answers a next state: the set-up starts the run or finds a zero clock, the total is reached, a command
runs, or an error is entered. -/
theorem step_cases {s t : State} (h : step s = .next t) :
    (s.status = .awaitingSetup ∧ inRange s = true ∧ s.clock = 0 ∧ t = s.raise .zeroClock) ∨
    (s.status = .awaitingSetup ∧ inRange s = true ∧ s.clock ≠ 0 ∧ t = startRun s) ∨
    (s.status = .running ∧ s.total ≤ s.count ∧ t = { s with status := .complete }) ∨
    (s.status = .running ∧ s.count < s.total ∧ ∃ i, fetch s = .ok i ∧ exec i s = .next t) ∨
    (s.status = .running ∧ s.count < s.total ∧ ∃ e, fetch s = .error e ∧ t = s.raise e) := by
  cases hs : s.status with
  | awaitingSetup =>
    rw [step_awaitingSetup hs] at h
    unfold setup at h
    by_cases hr : inRange s = true <;> by_cases hc : s.clock = 0 <;> simp [hr, hc] at h
    · exact .inl ⟨rfl, hr, hc, h.symm⟩
    · exact .inr (.inl ⟨rfl, hr, hc, h.symm⟩)
  | running =>
    rw [step_running hs] at h
    rcases Nat.lt_or_ge s.count s.total with hc | hc
    · rw [commandStep_below hc] at h
      cases hf : fetch s with
      | ok i => rw [hf] at h; exact .inr (.inr (.inr (.inl ⟨rfl, hc, i, rfl, h⟩)))
      | error e =>
        rw [hf] at h
        injection h with h
        exact .inr (.inr (.inr (.inr ⟨rfl, hc, e, rfl, h.symm⟩)))
    · rw [commandStep_done hc] at h
      injection h with h
      exact .inr (.inr (.inl ⟨rfl, hc, h.symm⟩))
  | complete => simp [step, hs] at h
  | endMarker => simp [step, hs] at h
  | fault e => simp [step, hs] at h

end Sys2Proof.Machine
end

