-- ==== Sys2Proof/Tests/Slice0.lean ====
section
/-! SUPPORT. Tests/Slice0.lean: small tests whose expected values are the spec's (30_encoding.md, the examples of the
instruction rules, 95_test_vectors.md), and for each statement with hypotheses a witness that meets them. -/

namespace Sys2Proof.Machine.Tests

/-! ## Helpers -/

/-- The reset machine with a byte sequence and a declared total of 5. -/
def loaded (bs : List Byte) : State := { State.reset with stream := .ofBytes bs, total := 5 }

/-- The same with another chip. -/
def withChip (c : Chip) : State := { State.reset with chip := c }

def nextOf : Result → Option State
  | .next s => some s
  | .fault _ => none
  | .refused _ => none

/-- A field of the next state. -/
def after {α : Type} (r : Result) (f : State → α) : Option α := (nextOf r).map f

/-! ## Well-formedness: an ill-formed term for each check -/

theorem test_wf_waitsLow_zero : (Instr.waitsLow 0).check = false := by decide
theorem test_wf_waitsLow_nine : (Instr.waitsLow 9).check = false := by decide
theorem test_wf_waitsHigh_eight : (Instr.waitsHigh 8).check = false := by decide
theorem test_wf_waitsHigh_eleven : (Instr.waitsHigh 11).check = false := by decide
theorem test_wf_ends : (Instr.waitsLow 1).check = true ∧ (Instr.waitsLow 8).check = true ∧
    (Instr.waitsHigh 9).check = true ∧ (Instr.waitsHigh 10).check = true := by decide

/-! ## Decoding: words written out from the encodings of 30_encoding.md R75, R76, R78 -/

theorem test_decode_toneLo0 : decodeWrite 0b10000011 = .toneLo0 3 := by decide
theorem test_decode_toneLo1 : decodeWrite 0b10100101 = .toneLo1 5 := by decide
theorem test_decode_toneLo2 : decodeWrite 0b11000101 = .toneLo2 5 := by decide
theorem test_decode_vol0 : decodeWrite 0b10011111 = .vol0 15 := by decide
theorem test_decode_vol1 : decodeWrite 0b10110000 = .vol1 0 := by decide
theorem test_decode_vol2 : decodeWrite 0b11010011 = .vol2 3 := by decide
theorem test_decode_vol3 : decodeWrite 0b11110001 = .vol3 1 := by decide
theorem test_decode_noiseCtrl : decodeWrite 0b11100110 = .noiseCtrl false true 2 := by decide
theorem test_decode_noiseCtrl_ignored : decodeWrite 0b11101001 = .noiseCtrl true false 1 := by decide
theorem test_decode_data : decodeWrite 0b00101010 = .data false 0x2A := by decide
theorem test_decode_data_ignored : decodeWrite 0b01000001 = .data true 1 := by decide
theorem test_decode_psg : decodeCommand [0b01010000, 0b10011111] = .ok (.psg 0x9F, []) := by decide
theorem test_decode_wait : decodeCommand [0b01100001, 0b00001010, 0b00000001] = .ok (.wait 266, []) := by decide
theorem test_decode_wait735 : decodeCommand [0b01100010] = .ok (.wait735, []) := by decide
theorem test_decode_wait882 : decodeCommand [0b01100011] = .ok (.wait882, []) := by decide
theorem test_decode_endMark : decodeCommand [0b01100110, 0x50] = .ok (.endMark, [0x50]) := by decide
theorem test_decode_waitsLow : decodeCommand [0b01110111] = .ok (.waitsLow 8, []) := by decide
theorem test_decode_waitsHigh : decodeCommand [0b01111001] = .ok (.waitsHigh 10, []) := by decide
theorem test_reject_7A : decodeCommand [0x7A] = .error (.unknownOpcode 0x7A) := by decide
theorem test_reject_4F : decodeCommand [0x4F, 0] = .error (.unknownOpcode 0x4F) := by decide
theorem test_reject_cut : decodeCommand [0x50] = .error .operandCut ∧ decodeCommand [0x61, 5] = .error .operandCut := by decide
theorem test_encode_wait : encode (.wait 256) = [0x61, 0x00, 0x01] := by decide
theorem test_encode_noiseCtrl : encode (.noiseCtrl false true 3) = [0xE7] := by decide
theorem test_tableWord_levels :
    decodeTableWord 8 0x80 = some (.toneLo0 0) ∧ decodeTableWord 8 0x00 = some (.data false 0) ∧
      decodeTableWord 8 0x50 = some (.psg 0) ∧ decodeTableWord 16 0x9F50 = some (.psg 0x9F) ∧
      decodeTableWord 24 0x010061 = some (.wait 256) ∧ decodeTableWord 16 0x7A = none := by decide

/-! ## One instruction: the vectors of 95_test_vectors.md section 2.1 and the examples of the rules -/

/-- L1-2, after `83` (R106). -/
theorem test_toneLo0 : after (exec (.toneLo0 3) State.reset) (fun s => s.chip.sq[0].periodReload) = some 0x003 := by decide
/-- W-11: counter and phase are unchanged (R110). -/
theorem test_toneLo0_lazy :
    after (exec (.toneLo0 5) (withChip { Chip.reset with sq := #v[⟨0, 0x064, 7, true⟩, Square.reset, Square.reset] }))
      (fun s => s.chip.sq[0]) = some ⟨0, 0x065, 7, true⟩ := by decide
/-- W-10: A5 latches slot 1 and writes its low bits. -/
theorem test_toneLo1 : after (exec (.toneLo1 5) State.reset) (fun s => (s.chip.sq[1].periodReload, s.chip.latchCh)) =
    some (0x005, 1) := by decide
/-- W-12, the first byte. -/
theorem test_toneLo2 : after (exec (.toneLo2 5) State.reset) (fun s => (s.chip.sq[2].periodReload, s.chip.latchCh)) =
    some (0x005, 2) := by decide
/-- W-1. -/
theorem test_vol0 : after (exec (.vol0 15) State.reset) (fun s => (s.chip.sq[0].volume, s.chip.latchCh, s.chip.latchVol)) =
    some (15, 0, true) := by decide
theorem test_vol1 : after (exec (.vol1 10) State.reset) (fun s => (s.chip.sq[1].volume, s.chip.latchCh, s.chip.latchVol)) =
    some (10, 1, true) := by decide
/-- W-13. -/
theorem test_vol2 : after (exec (.vol2 3) State.reset) (fun s => (s.chip.sq[2].volume, s.chip.latchCh, s.chip.latchVol)) =
    some (3, 2, true) := by decide
theorem test_vol3 : after (exec (.vol3 15) State.reset) (fun s => (s.chip.nz.volume, s.chip.latchCh, s.chip.latchVol)) =
    some (15, 3, true) := by decide
/-- W-6: the shift register stays (R156). -/
theorem test_noiseCtrl : after (exec (.noiseCtrl false true 3) State.reset)
    (fun s => (s.chip.nz.mode, s.chip.nz.white, s.chip.nz.lfsr, s.chip.latchCh)) = some (3, true, 0x8000, 3) := by decide
/-- W-8: data bit 3 is ignored. -/
theorem test_noiseCtrl_ignored : exec (.noiseCtrl true true 3) State.reset = exec (.noiseCtrl false true 3) State.reset := rfl
/-- W-4: the high six bits, bit 6 of the byte ignored. -/
theorem test_data_period :
    after (exec (.data true 0x3F) (withChip { Chip.reset with sq := #v[⟨0, 0x003, 0, false⟩, Square.reset, Square.reset] }))
      (fun s => s.chip.sq[0].periodReload) = some 0x3F3 := by decide
/-- W-3, the second byte: a volume takes the low four bits (R105). -/
theorem test_data_volume : after (exec (.data false 0x3A) (withChip { Chip.reset with latchCh := 1, latchVol := true }))
    (fun s => s.chip.sq[1].volume) = some 0xA := by decide
/-- R175, the example: `50 9F` at cursor 0. -/
theorem test_psg : after (step (loaded [0x50, 0x9F])) (fun s => (s.chip.sq[0].volume, s.chip.latchVol, s.cursor)) =
    some (15, true, 2) := by decide
/-- C-6: WAIT 0 renders nothing. -/
theorem test_wait_zero : after (step (loaded [0x61, 0, 0, 0x66])) (fun s => (s.count, s.cursor)) = some (0, 3) := by decide
/-- C-8 and C-1: END leaves the cursor. -/
theorem test_endMark : after (step (loaded [0x66])) (fun s => (s.status, s.cursor, s.count)) = some (.endMarker, 0, 0) := by
  decide
/-- C-14, the first step: one sample, 8968. -/
theorem test_waitsLow : after (step (loaded [0x70])) (fun s => (s.buf, s.cursor, s.chip.div)) = some ([8968], 1, 15) := by
  decide +kernel
/-- C-7, the first step: a wait of 10 is clamped at the total 5. -/
theorem test_wait_clamped : after (step (loaded [0x61, 0x0A, 0])) (fun s => (s.buf, s.cursor, s.chip.div)) =
    some ([8968, 32764, 8968, 32764, 8968], 3, 11) := by decide +kernel
/-- R180 clamped at the total as C-7: 0x79 asks for 10 samples. -/
theorem test_waitsHigh : after (step (loaded [0x79])) (fun s => (s.count, s.cursor)) = some (5, 1) := by decide
/-- C-17: with a clock below the rate a sample is the reset mix (R184). -/
theorem test_wait735_no_ticks : after (step { loaded [0x62] with tps := 0, total := 2 }) (fun s => (s.buf, s.cursor)) =
    some ([32764, 32764], 1) := by decide +kernel
theorem test_wait882_no_ticks : after (step { loaded [0x63] with tps := 0, total := 1 }) (fun s => (s.buf, s.cursor)) =
    some ([32764], 1) := by decide +kernel

/-! ## Steps that end a run (95_test_vectors.md section 2.6) -/

/-- C-10. -/
theorem test_unknownOpcode : step (loaded [0x7A]) = .next { loaded [0x7A] with status := .fault (.unknownOpcode 0x7A 0) } := rfl
/-- C-12. -/
theorem test_overrun_psg : step (loaded [0x50]) = .next { loaded [0x50] with status := .fault (.streamOverrun 1) } := rfl
/-- C-13. -/
theorem test_overrun_wait : step (loaded [0x61, 5]) = .next { loaded [0x61, 5] with status := .fault (.streamOverrun 1) } := rfl
/-- C-14, the second step. -/
theorem test_overrun_fetch :
    step { loaded [0x70] with cursor := 1 } = .next { loaded [0x70] with cursor := 1, status := .fault (.streamOverrun 1) } := rfl
/-- C-9: at the total nothing is fetched. -/
theorem test_complete : step { loaded [0xFF] with total := 0 } = .next { loaded [0xFF] with total := 0, status := .complete } := rfl
/-- C-16. -/
theorem test_zeroClock : after (step (State.load Config.default ⟨[0x70], 0, 5, 0⟩)) (fun s => s.status) =
    some (.fault .zeroClock) := by decide
/-- C-15 and R171: the cursor starts at the offset, 81 ticks a sample. -/
theorem test_setup : after (step (State.load Config.default ⟨[0xFF, 0xFF, 0x70, 0x66], 3579545, 5, 2⟩))
    (fun s => (s.status, s.cursor, s.tps, s.count)) = some (.running, 2, 81, 0) := by decide
/-- R205: a clock of 2^31. -/
theorem test_outOfRange : step (State.load Config.default ⟨[], 2 ^ 31, 0, 0⟩) = .refused .outOfRange := rfl
theorem test_reset_step : after (step State.reset) (fun s => s.status) = some .complete := by decide

/-! ## The internal operations (95_test_vectors.md sections 2.2 to 2.5) -/

/-- A-4: 81 cycles leave 15, after 5 channel clocks (an odd number, so the phases are true). -/
theorem test_advance_81 : (advance Config.default 81 Chip.reset).div = 15 ∧
    (advance Config.default 81 Chip.reset).sq[1].phase = true := by decide +kernel
/-- M-3. -/
theorem test_sample_M3 :
    sample Config.default { Chip.reset with sq := #v[⟨4, 0, 0, true⟩, Square.reset, Square.reset] } = 25224 := by decide
/-- M-4. -/
theorem test_sample_M4 : sample Config.default { Chip.reset with
    sq := #v[⟨0, 0, 0, true⟩, ⟨5, 0, 0, true⟩, ⟨10, 0, 0, true⟩], nz := { Noise.reset with phase := true, volume := 15 } } =
    11859 := by decide
/-- S-1: the first and the fourth call. -/
theorem test_square_S1 : repeatDo Square.clock 1 ⟨0, 3, 0, false⟩ = ⟨0, 3, 3, true⟩ ∧
    repeatDo Square.clock 4 ⟨0, 3, 0, false⟩ = ⟨0, 3, 3, false⟩ := by decide
/-- S-2: period 0 toggles on every call. -/
theorem test_square_S2 : repeatDo Square.clock 2 Square.reset = Square.reset := by decide
/-- N-1. -/
theorem test_noise_N1 : (noiseClock Config.default Chip.reset).nz = ⟨0, 0x4000, 0, false, true, 16, false⟩ := by decide
/-- N-3. -/
theorem test_shift_N3 : shiftRegister true 0x0008 = 0x8004 := by decide
/-- N-4: the 16th state and the 32nd of the white sequence. -/
theorem test_white_N4 : repeatDo (shiftRegister true) 16 lfsrSeed = 0x9000 ∧
    repeatDo (shiftRegister true) 32 lfsrSeed = 0x8200 := by decide +kernel
/-- N-8: in mode 3 the reload is slot 2's live period. -/
theorem test_reload_mode3 : noiseReload Config.default { Chip.reset with
    sq := #v[Square.reset, Square.reset, ⟨0, 4, 9, false⟩], nz := { Noise.reset with mode := 3 } } = 4 := by decide
/-- R53. -/
theorem test_memRead : memRead (.ofBytes [0x61, 0x0A, 0x01]) 1 2 = .ok 0x10A := by rfl

/-! ## Witnesses: states and operands that meet the hypotheses of the statements -/

theorem witness_DecodeInvertsEncode : (Instr.waitsLow 8).wellFormed ∧ (Instr.waitsHigh 9).wellFormed := by decide
theorem witness_EncodeInvertsDecode : decodeAt .command [0x79, 0x66] = .ok (.waitsHigh 10, [0x66]) ∧
    decodeAt .psgWrite [0xFF] = .ok (.vol3 15, []) := by decide
theorem witness_CommandOperandsAssemble_psg : (loaded [0x50, 0xFF]).stream.read 0 = some 0x50 ∧
    memRead (loaded [0x50, 0xFF]).stream 1 1 = .ok 0xFF := ⟨rfl, rfl⟩
theorem witness_CommandOperandsAssemble_wait : (loaded [0x61, 0xFF, 0xFF]).stream.read 0 = some 0x61 ∧
    memRead (loaded [0x61, 0xFF, 0xFF]).stream 1 2 = .ok 0xFFFF := ⟨rfl, rfl⟩
theorem witness_CommandOperandsAssemble_waits : (loaded [0x70]).stream.read 0 = some 0x70 ∧
    (loaded [0x79]).stream.read 0 = some 0x79 ∧ (loaded [0x62]).stream.read 0 = some 0x62 ∧
    (loaded [0x63]).stream.read 0 = some 0x63 := by decide
theorem witness_MemRead_inside : (Memory.ofBytes [1, 2]).wf ∧ (Memory.ofBytes [1, 2]).read 0 = some 1 ∧
    (Memory.ofBytes [1, 2]).read 1 = some 2 := by decide
theorem witness_MemRead_past : (Memory.ofBytes [1, 2]).wf ∧ (Memory.ofBytes [1, 2]).len < 1 + 2 ∧
    (Memory.ofBytes [1, 2]).len < 2 + 1 := by decide
theorem witness_StepRunsDecodedCommand : Ready (loaded [0x50, 0x9F]) ∧
    decodeCommand ((loaded [0x50, 0x9F]).stream.window 0 longestInstr) = .ok (.psg 0x9F, []) := by decide
theorem witness_StepRunsLoadedTableWord : decodeTableWord 24 0x61 = some (.wait 0) ∧ (Instr.wait 0).level = .command ∧
    decodeTableWord 8 0xF0 = some (.vol3 0) ∧ (Instr.vol3 0).level = .psgWrite := by decide
theorem witness_TotalReachedCompletes : State.reset.status = .running ∧ State.reset.total ≤ State.reset.count := by decide
theorem witness_InvalidOpcode : Ready (loaded [0x7A]) ∧ (loaded [0x7A]).stream.read 0 = some 0x7A ∧
    ∀ r ∈ commandRows, r.covers 0x7A = false := by decide
theorem witness_InvalidOpcode_below : ∀ r ∈ commandRows, r.covers 0x6F = false ∧ r.covers 0x4F = false := by decide
theorem witness_MissingByte_fetch : Ready (loaded []) ∧ (loaded []).stream.read 0 = none := by decide
theorem witness_MissingByte_psg : Ready (loaded [0x50]) ∧ (loaded [0x50]).stream.read 0 = some 0x50 ∧
    (loaded [0x50]).stream.read 1 = none := by decide
theorem witness_MissingByte_wait : Ready (loaded [0x61, 5]) ∧ (loaded [0x61, 5]).stream.read 0 = some 0x61 ∧
    (loaded [0x61, 5]).stream.read 2 = none ∧ (loaded [0x61]).stream.read 1 = none := by decide
theorem witness_FinalStatus : ({ State.reset with status := .complete } : State).status = .complete ∧
    ({ State.reset with status := .endMarker } : State).status = .endMarker ∧
    ({ State.reset with status := .fault .zeroClock } : State).status = .fault .zeroClock := by decide
theorem witness_ErrorClasses : State.reset.cfg.wf ∧
    RunError.zeroClock.errorClass ≠ (RunError.streamOverrun 0).errorClass ∧
    (RunError.unknownOpcode 0 0).errorClass ≠ (RunError.streamOverrun 0).errorClass := by decide
theorem witness_SetupRefuses : (State.load Config.default ⟨[], 2 ^ 31, 0, 0⟩).status = .awaitingSetup ∧
    2 ^ 31 ≤ (State.load Config.default ⟨[], 2 ^ 31, 0, 0⟩).clock ∧
    2 ^ 31 ≤ (State.load Config.default ⟨[], 1, 2 ^ 31, 0⟩).total ∧
    2 ^ 31 ≤ (State.load Config.default ⟨[], 1, 0, 2 ^ 31⟩).offset := by decide
theorem witness_SetupZeroClock : (State.load Config.default ⟨[], 0, 2 ^ 31 - 1, 2 ^ 31 - 1⟩).status = .awaitingSetup ∧
    (State.load Config.default ⟨[], 0, 2 ^ 31 - 1, 2 ^ 31 - 1⟩).total < 2 ^ 31 ∧
    (State.load Config.default ⟨[], 0, 2 ^ 31 - 1, 2 ^ 31 - 1⟩).offset < 2 ^ 31 ∧
    (State.load Config.default ⟨[], 0, 2 ^ 31 - 1, 2 ^ 31 - 1⟩).clock = 0 := by decide
theorem witness_SetupStartsRun : (State.load Config.default ⟨[0x66], 2 ^ 31 - 1, 0, 7⟩).status = .awaitingSetup ∧
    (State.load Config.default ⟨[0x66], 2 ^ 31 - 1, 0, 7⟩).stream.len < 2 ^ 31 ∧
    (State.load Config.default ⟨[0x66], 2 ^ 31 - 1, 0, 7⟩).clock < 2 ^ 31 ∧
    (State.load Config.default ⟨[0x66], 1, 0, 7⟩).clock ≠ 0 := by decide
theorem witness_NoiseControl_data : (withChip { Chip.reset with latchCh := 3 }).chip.latchCh = 3 ∧
    (withChip { Chip.reset with latchCh := 3 }).chip.latchVol = false := by decide
theorem witness_DataWritesVolume : (withChip { Chip.reset with latchCh := 2, latchVol := true }).chip.latchVol = true ∧
    (withChip { Chip.reset with latchCh := 2, latchVol := true }).chip.latchCh.toNat = (2 : Fin 3) ∧
    (withChip { Chip.reset with latchCh := 3, latchVol := true }).chip.latchCh = 3 := by decide
theorem witness_DataWritesHighPeriodBits : State.reset.chip.latchVol = false ∧ State.reset.chip.latchCh.toNat = (0 : Fin 3) ∧
    (withChip { Chip.reset with latchCh := 2 }).chip.latchCh.toNat = (2 : Fin 3) := by decide
theorem witness_SplitWriteCombines : (2 : Slot).toNat = (2 : Fin 3) ∧ Chip.reset.latchCh = 0 ∧ Chip.reset.latchVol = false := by
  decide
theorem witness_LatchFollowsWrites : (nextOf (exec (.vol3 1) State.reset)).isSome ∧
    writeTarget (.vol3 1) State.reset.chip = some 7 ∧ writeTarget .endMark State.reset.chip = none := by decide
theorem witness_OnlyTargetRegisterChanges : (nextOf (exec (.data false 1) State.reset)).isSome ∧
    writeTarget (.data false 1) State.reset.chip ≠ some 1 := by decide
theorem witness_WritesLeaveCountersAlone : waitSamples (.psg 0x9F) = none ∧
    (nextOf (exec (.psg 0x9F) State.reset)).isSome := by decide
theorem witness_ExecLeavesInputsAlone : (nextOf (exec (.wait 0) State.reset)).isSome := by decide
theorem witness_CursorAdvancesByLength : (nextOf (exec (.psg 0) State.reset)).isSome ∧ (Instr.psg 0).level = .command ∧
    Instr.psg 0 ≠ .endMark ∧ (Instr.data false 0).level = .psgWrite := by decide
theorem witness_WaitsRender : waitSamples (.wait 0xFFFF) = some 65535 ∧ waitSamples .wait735 = some 735 ∧
    waitSamples .wait882 = some 882 ∧ waitSamples (.waitsLow 1) = some 1 ∧ waitSamples (.waitsHigh 10) = some 10 := by decide
theorem witness_ZeroTicks : waitSamples (.waitsLow 4) = some 4 ∧ ({ State.reset with tps := 0 } : State).tps = 0 := by decide
theorem witness_EndMarkStopsRun : Ready (loaded [0x66]) ∧ (loaded [0x66]).stream.read 0 = some 0x66 := by decide
theorem witness_PrescalerLaw : Chip.reset.div = (16 : Nat) ∧ ({ Chip.reset with div := 1 } : Chip).div = (1 : Nat) := by decide
theorem witness_OutputLevel : (2 : Slot).toNat = (2 : Fin 3) ∧ Chip.reset.sq[2].phase = false ∧
    Chip.reset.nz.phase = false ∧ (noiseClock Config.default { Chip.reset with nz := { Noise.reset with lfsr := 1 } }).nz.phase = true ∧
    (squareClock 2 Chip.reset).sq[2].phase = true := by decide
theorem witness_SampleSilent : (∀ i : Fin 3, Chip.reset.sq[i].volume = 15 ∨ Chip.reset.sq[i].phase = false) ∧
    (Chip.reset.nz.volume = 15 ∨ Chip.reset.nz.phase = false) := by decide
theorem witness_SampleFitsPort : Config.default.wf := by decide
theorem witness_SquareClockStep : (⟨0, 5, 1, false⟩ : Square).counter - 1 ≤ 0 ∧ 0 < (⟨0, 5, 2, false⟩ : Square).counter - 1 := by
  decide
theorem witness_SquareToggleInterval : Square.reset.counter = Square.reset.periodReload.toNat ∧
    (⟨0, 1023, 1023, true⟩ : Square).counter = (⟨0, 1023, 1023, true⟩ : Square).periodReload.toNat := by decide
theorem witness_SquareReloadIsLazy : 0 < max (⟨0, 100, 50, true⟩ : Square).counter.toNat 1 := by decide
theorem witness_NoiseClockStep : Noise.reset.mode.toNat < 3 ∧ Noise.reset.counter - 1 ≤ 0 ∧ Noise.reset.toggle = false ∧
    0 < ({ Noise.reset with mode := 3, counter := 2 } : Noise).counter - 1 ∧
    ({ Noise.reset with mode := 3, counter := 1, toggle := true } : Noise).mode = 3 := by decide
theorem witness_NoiseBorrows : (⟨9, 0, 77, true⟩ : Square).periodReload = Chip.reset.sq[2].periodReload := by decide
theorem witness_NoiseShifts : Noise.reset.counter = (0 : Nat) ∧ ({ Noise.reset with counter := 16 } : Noise).counter = (16 : Nat) := by
  decide
theorem witness_LfsrModes : ({ Noise.reset with white := true } : Noise).white = true ∧ Noise.reset.white = false := by decide
theorem witness_StepKeepsInvariant : Inv (loaded [0x66]) ∧ (nextOf (step (loaded [0x66]))).isSome := by
  refine ⟨⟨by decide, ⟨by decide, by decide, by decide, by decide, by decide, by decide, by decide⟩, by decide, rfl, by decide,
    ?_, ?_, ?_, ?_, ?_, ?_⟩, by decide⟩
  · intro v hv; cases hv
  · intro h; cases h
  · intro _; decide
  · intro h; cases h
  · intro h; cases h
  · intro op pos h; cases h
theorem witness_StepLeavesInputsAlone : (loaded [0x66]).status = .running ∧ (nextOf (step (loaded [0x66]))).isSome := by decide
theorem witness_BufferIsAppendOnly : (loaded [0x70]).status = .running ∧ (nextOf (step (loaded [0x70]))).isSome := by decide
theorem witness_PrescalerTracksChipTime : (loaded [0x66]).chip.div = 16 - (((loaded [0x66]).count * (loaded [0x66]).tps) % 16 : Nat) ∧
    after (step (State.load Config.default ⟨[], 1, 0, 0⟩)) (fun s => s.status) = some .running := by decide
theorem witness_InvariantHoldsAtLoad : Config.default.wf := by decide
theorem witness_CursorIsMonotone : (loaded [0x50, 0]).status = .running ∧
    after (step (loaded [0x50, 0])) (fun s => s.status) = some .running := by decide
theorem witness_RunTerminates : (loaded [0x66]).stream.wf ∧ (loaded [0x66]).status = .running := by decide
theorem witness_LoadedRun : Config.default.wf ∧ (⟨[0x66], 1, 2 ^ 31 - 1, 0⟩ : RunInput).bytes.length < 2 ^ 31 ∧
    (⟨[0x66], 1, 2 ^ 31 - 1, 0⟩ : RunInput).total < 2 ^ 31 ∧ (⟨[0x66], 1, 2 ^ 31 - 1, 0⟩ : RunInput).clock ≠ 0 := by decide

end Sys2Proof.Machine.Tests
end

