-- ==== Sys2Proof/Proofs/Encoding.lean ====
section
/-! SUPPORT. Proofs/Encoding.lean: the command at the cursor by its opcode byte, how its operand is assembled, and the end
mark (30_encoding.md R76 to R80; 44_command_stream.md R179). -/

namespace Sys2Proof

/-! ## The two rows of WAITS by the opcode's value (30_encoding.md R77, R78) -/

/-- The opcodes of the two rows of WAITS lie between the ends that their masks name. -/
theorem waits_opcode_cases : ∀ op : Byte, 0x70 ≤ op.toNat → op.toNat ≤ 0x79 →
    op ≠ 0x50#8 ∧ op ≠ 0x61#8 ∧ op ≠ 0x62#8 ∧ op ≠ 0x63#8 ∧ op ≠ 0x66#8 ∧
      (op &&& 0xF8#8 = 0x70#8 ∨ op &&& 0xF8#8 ≠ 0x70#8 ∧ op &&& 0xFE#8 = 0x78#8) := by
  decide

/-- An opcode 0x70..0x79 is a wait of `op[3:0] + 1` samples, whatever follows. -/
theorem decodeCommand_waits {op : Byte} (hlo : 0x70 ≤ op.toNat) (hhi : op.toNat ≤ 0x79) :
    ∃ i, Machine.waitSamples i = some ((narrowData op).toNat + 1) ∧ ∀ rest, decodeCommand (op :: rest) = .ok (i, rest) := by
  obtain ⟨h50, h61, h62, h63, h66, low | ⟨notLow, high⟩⟩ := waits_opcode_cases op hlo hhi
  · exact ⟨.waitsLow _, rfl, fun rest => by simp only [decodeCommand, h50, h61, h62, h63, h66, low, if_false, if_true]⟩
  · exact ⟨.waitsHigh _, rfl, fun rest => by
      simp only [decodeCommand, h50, h61, h62, h63, h66, notLow, high, if_false, if_true]⟩

/-- Two bytes make a number below 2^16. -/
theorem littleEndian_pair_lt (lo hi : Byte) : littleEndian [lo, hi] < 2 ^ 16 := by
  have := lo.isLt
  have := hi.isLt
  simp only [littleEndian]
  omega

end Sys2Proof

namespace Sys2Proof.Machine

/-! ## Windows and MemRead, byte by byte (20_memory.md R53) -/

theorem Memory.window_succ {m : Memory} {a : Nat} {b : Byte} (h : m.read a = some b) (n : Nat) :
    m.window a (n + 1) = b :: m.window (a + 1) n := by
  simp [Memory.window, h]

/-- MemRead of one byte answers exactly when there is one, and with its value. -/
theorem memRead_one {m : Memory} {a v : Nat} : memRead m a 1 = .ok v ↔ ∃ b, m.read a = some b ∧ b.toNat = v := by
  cases h : m.read a with
  | none => simp [memRead, Memory.window, h]
  | some b => simp [memRead, Memory.window, h, littleEndian]

/-- MemRead of two bytes answers exactly when both are there, the first the least significant. -/
theorem memRead_two {m : Memory} {a v : Nat} :
    memRead m a 2 = .ok v ↔ ∃ lo hi, m.read a = some lo ∧ m.read (a + 1) = some hi ∧ littleEndian [lo, hi] = v := by
  cases hlo : m.read a with
  | none => simp [memRead, Memory.window, hlo]
  | some lo =>
    cases hhi : m.read (a + 1) with
    | none => simp [memRead, Memory.window, hlo, hhi]
    | some hi => simp [memRead, Memory.window, hlo, hhi]

/-! ## The fetch by the bytes at the cursor (44_command_stream.md R173) -/

section
variable {s : State}

/-- A command that needs no operand byte is fetched by its opcode alone. -/
theorem fetch_opcode {op : Byte} {i : Instr} (hop : s.stream.read s.cursor = some op)
    (hdec : ∀ rest, decodeCommand (op :: rest) = .ok (i, rest)) : fetch s = .ok i :=
  fetch_ok.mpr ⟨_, by rw [longestInstr, Memory.window_succ hop, hdec]⟩

theorem fetch_psg {b : Byte} (hop : s.stream.read s.cursor = some 0x50#8) (hb : s.stream.read (s.cursor + 1) = some b) :
    fetch s = .ok (.psg b) :=
  fetch_ok.mpr ⟨_, by rw [longestInstr, Memory.window_succ hop, Memory.window_succ hb, decodeCommand_psg, decodePsg]⟩

theorem fetch_wait {lo hi : Byte} (hop : s.stream.read s.cursor = some 0x61#8)
    (hlo : s.stream.read (s.cursor + 1) = some lo) (hhi : s.stream.read (s.cursor + 1 + 1) = some hi) :
    fetch s = .ok (.wait (BitVec.ofNat 16 (littleEndian [lo, hi]))) :=
  fetch_ok.mpr ⟨_, by
    rw [longestInstr, Memory.window_succ hop, Memory.window_succ hlo, Memory.window_succ hhi, decodeCommand_wait,
      decodeWait]⟩

theorem fetch_waits {op : Byte} (hop : s.stream.read s.cursor = some op) (hlo : 0x70 ≤ op.toNat) (hhi : op.toNat ≤ 0x79) :
    ∃ i, fetch s = .ok i ∧ waitSamples i = some ((narrowData op).toNat + 1) := by
  obtain ⟨i, samples, hdec⟩ := decodeCommand_waits hlo hhi
  exact ⟨i, fetch_opcode hop hdec, samples⟩

theorem fetch_endMark (hop : s.stream.read s.cursor = some 0x66#8) : fetch s = .ok .endMark :=
  fetch_opcode hop decodeCommand_endMark

/-- A step of a running interpreter below its total is the meaning of the command it fetches (R173). -/
theorem step_of_fetch {i : Instr} (hr : Ready s) (hf : fetch s = .ok i) : step s = exec i s := by
  obtain ⟨running, below⟩ := hr
  rw [step_running running, commandStep_below below, hf]

end

theorem exec_endMark (s : State) : exec .endMark s = .next { s with status := .endMarker } := rfl

/-! ## The obligations -/

/-- Settles O5: the opcode and the operand bytes that MemRead found stand in the window which the fetch decodes. -/
theorem commandOperandsAssemble : Obligations.CommandOperandsAssemble := by
  intro s op hop
  refine ⟨?psg, ?wait, fetch_waits hop, ?wait735, ?wait882⟩
  case psg =>
    rintro v rfl hv
    obtain ⟨b, hb, rfl⟩ := memRead_one.mp hv
    exact ⟨by rw [fetch_psg hop hb, BitVec.ofNat_toNat, BitVec.setWidth_eq], b.isLt⟩
  case wait =>
    rintro v rfl hv
    obtain ⟨lo, hi, hlo, hhi, rfl⟩ := memRead_two.mp hv
    exact ⟨fetch_wait hop hlo hhi, littleEndian_pair_lt lo hi⟩
  case wait735 =>
    rintro rfl
    exact ⟨.wait735, fetch_opcode hop decodeCommand_wait735, rfl⟩
  case wait882 =>
    rintro rfl
    exact ⟨.wait882, fetch_opcode hop decodeCommand_wait882, rfl⟩

/-- Settles O35: the step of a fetched end mark is its exec, which sets the status alone. -/
theorem endMarkStopsRun : Obligations.EndMarkStopsRun :=
  ⟨exec_endMark, fun s hr hop => by rw [step_of_fetch hr (fetch_endMark hop), exec_endMark]⟩

end Sys2Proof.Machine
end

