-- ==== Sys2Proof/Proofs/WriteProtocol.lean ====
section
/-! SUPPORT. Proofs/WriteProtocol.lean: the meaning of each write form, what a LATCH and a DATA byte write by the target of
the latch, and the register writes' results (40_write_protocol.md R104 to R108). -/

namespace Sys2Proof.Machine

/-! ## Each write form is one LATCH or DATA write of the chip (R100, R102) -/

section Exec
variable (d : BitVec 4) (s : State)

theorem exec_toneLo0 : exec (.toneLo0 d) s = .next (s.onChip (latchWrite 0 false d)) := rfl
theorem exec_toneLo1 : exec (.toneLo1 d) s = .next (s.onChip (latchWrite 1 false d)) := rfl
theorem exec_toneLo2 : exec (.toneLo2 d) s = .next (s.onChip (latchWrite 2 false d)) := rfl
theorem exec_vol0 : exec (.vol0 d) s = .next (s.onChip (latchWrite 0 true d)) := rfl
theorem exec_vol1 : exec (.vol1 d) s = .next (s.onChip (latchWrite 1 true d)) := rfl
theorem exec_vol2 : exec (.vol2 d) s = .next (s.onChip (latchWrite 2 true d)) := rfl
theorem exec_vol3 : exec (.vol3 d) s = .next (s.onChip (latchWrite 3 true d)) := rfl

theorem exec_noiseCtrl (x w : Bool) (m : BitVec 2) :
    exec (.noiseCtrl x w m) s = .next (s.onChip (latchWrite 3 false (noiseData x w m))) := rfl

theorem exec_data (x : Bool) (e : WriteData) : exec (.data x e) s = .next (s.onChip (dataWrite e)) := rfl

end Exec

/-- Of two updates of the chip, only their values at the state's own chip matter. -/
theorem eq_next_onChip_congr {r : Result} {s : State} {f g : Chip → Chip} (hr : r = .next (s.onChip f))
    (h : f s.chip = g s.chip) : r = .next (s.onChip g) := by
  rw [hr, State.onChip, h, State.onChip]

/-- Slot 3 is no square (R103). -/
theorem squareOf_eq_none {ch : Slot} (h : ch = 3) : squareOf ch = none := h ▸ squareOf_three

/-! ## The operand bits a register takes (R73, R105, R106, R108) -/

@[simp] theorem volumeData_widenNarrow (d : BitVec 4) : volumeData (widenNarrow d) = d := by
  ext k hk
  simp [volumeData, widenNarrow, hk, show k < 6 by omega]

@[simp] theorem narrowPeriod_widenNarrow (old : Period) (d : BitVec 4) :
    narrowPeriod old (widenNarrow d) = old.extractLsb' 4 6 ++ d :=
  congrArg (old.extractLsb' 4 6 ++ ·) (volumeData_widenNarrow d)

/-- The mode bits of NOISE_CTRL do not depend on the ignored bit. -/
@[simp] theorem modeData_noiseData (x w : Bool) (m : BitVec 2) : modeData (widenNarrow (noiseData x w m)) = m := by
  revert x w m; decide

/-- The white flag of NOISE_CTRL does not depend on the ignored bit. -/
@[simp] theorem whiteData_noiseData (x w : Bool) (m : BitVec 2) : whiteData (widenNarrow (noiseData x w m)) = w := by
  revert x w m; decide

/-! ## A LATCH byte, by the slot it selects: the latch and one register (R104, R106, R108) -/

theorem latchWrite_period {ch : Slot} {i : Fin 3} (h : squareOf ch = some i) (d : BitVec 4) (c : Chip) :
    latchWrite ch false d c = { c with
      latchCh := ch, latchVol := false
      sq := c.sq.set i { c.sq[i] with periodReload := c.sq[i].periodReload.extractLsb' 4 6 ++ d } } := by
  simp [latchWrite, applyWrite_period h, periodData, Chip.updateSquare]

theorem latchWrite_volume_square {ch : Slot} {i : Fin 3} (h : squareOf ch = some i) (d : BitVec 4) (c : Chip) :
    latchWrite ch true d c = { c with
      latchCh := ch, latchVol := true, sq := c.sq.set i { c.sq[i] with volume := d } } := by
  simp [latchWrite, applyWrite_volume_square h, Chip.updateSquare]

theorem latchWrite_volume_noise {ch : Slot} (h : squareOf ch = none) (d : BitVec 4) (c : Chip) :
    latchWrite ch true d c = { c with latchCh := ch, latchVol := true, nz := { c.nz with volume := d } } := by
  simp [latchWrite, applyWrite_volume_noise h]

theorem latchWrite_noise {ch : Slot} (h : squareOf ch = none) (x w : Bool) (m : BitVec 2) (c : Chip) :
    latchWrite ch false (noiseData x w m) c = { c with
      latchCh := ch, latchVol := false, nz := { c.nz with mode := m, white := w } } := by
  simp [latchWrite, applyWrite_noise h]

/-! ## A DATA byte, by the latched register: that register alone (R105, R107, R108) -/

section Data
variable {c : Chip} (d : WriteData)

/-- The kind of the latched register, where it is known, decides the write. -/
theorem dataWrite_of_latchVol {vol : Bool} (hv : c.latchVol = vol) :
    dataWrite d c = applyWrite c.latchCh vol d true c := by rw [dataWrite, hv]

theorem dataWrite_period {i : Fin 3} (hv : c.latchVol = false) (h : squareOf c.latchCh = some i) :
    dataWrite d c = { c with
      sq := c.sq.set i { c.sq[i] with periodReload := d ++ c.sq[i].periodReload.extractLsb' 0 4 } } :=
  (dataWrite_of_latchVol d hv).trans (applyWrite_period h d true c)

theorem dataWrite_volume_square {i : Fin 3} (hv : c.latchVol = true) (h : squareOf c.latchCh = some i) :
    dataWrite d c = { c with sq := c.sq.set i { c.sq[i] with volume := d.extractLsb' 0 4 } } :=
  (dataWrite_of_latchVol d hv).trans (applyWrite_volume_square h d true c)

theorem dataWrite_volume_noise (hv : c.latchVol = true) (h : squareOf c.latchCh = none) :
    dataWrite d c = { c with nz := { c.nz with volume := d.extractLsb' 0 4 } } :=
  (dataWrite_of_latchVol d hv).trans (applyWrite_volume_noise h d true c)

theorem dataWrite_noise (hv : c.latchVol = false) (h : squareOf c.latchCh = none) :
    dataWrite d c = { c with nz := { c.nz with mode := d.extractLsb' 0 2, white := d[2] } } :=
  (dataWrite_of_latchVol d hv).trans (applyWrite_noise h d true c)

end Data

/-! ## The obligations -/

/-- Settles O19: each TONE_LO form is the narrow period write of its own square. -/
theorem toneLatchWritesLowBits : Obligations.ToneLatchWritesLowBits := by
  intro s d
  exact ⟨eq_next_onChip_congr (exec_toneLo0 d s) (latchWrite_period squareOf_zero d s.chip),
    eq_next_onChip_congr (exec_toneLo1 d s) (latchWrite_period squareOf_one d s.chip),
    eq_next_onChip_congr (exec_toneLo2 d s) (latchWrite_period squareOf_two d s.chip)⟩

/-- Settles O20: each VOL form is the volume write of its own slot, a square or the noise channel. -/
theorem volumeLatchWritesVolume : Obligations.VolumeLatchWritesVolume := by
  intro s d
  exact ⟨eq_next_onChip_congr (exec_vol0 d s) (latchWrite_volume_square squareOf_zero d s.chip),
    eq_next_onChip_congr (exec_vol1 d s) (latchWrite_volume_square squareOf_one d s.chip),
    eq_next_onChip_congr (exec_vol2 d s) (latchWrite_volume_square squareOf_two d s.chip),
    eq_next_onChip_congr (exec_vol3 d s) (latchWrite_volume_noise squareOf_three d s.chip)⟩

/-- Settles O21: the LATCH form carries mode and white flag in its narrow data, the DATA form reads them off the wide data
where the noise control register is latched. -/
theorem noiseControlWrite : Obligations.NoiseControlWrite := by
  refine ⟨fun s x w m => ?latch, fun s x d hch hv => ?data⟩
  case latch => exact eq_next_onChip_congr (exec_noiseCtrl s x w m) (latchWrite_noise squareOf_three x w m s.chip)
  case data => exact eq_next_onChip_congr (exec_data s x d) (dataWrite_noise d hv (squareOf_eq_none hch))

/-- Settles O22: by the slot of the latched volume register. -/
theorem dataWritesVolume : Obligations.DataWritesVolume := by
  intro s x d hv
  refine ⟨fun i hi => ?square, fun hch => ?noise⟩
  case square => exact eq_next_onChip_congr (exec_data s x d) (dataWrite_volume_square d hv (squareOf_eq_some hi))
  case noise => exact eq_next_onChip_congr (exec_data s x d) (dataWrite_volume_noise d hv (squareOf_eq_none hch))

/-- Settles O23: the latched square's period register takes the wide write. -/
theorem dataWritesHighPeriodBits : Obligations.DataWritesHighPeriodBits := by
  intro s x d i hv hi
  exact eq_next_onChip_congr (exec_data s x d) (dataWrite_period d hv (squareOf_eq_some hi))

end Sys2Proof.Machine
end

