-- ==== Sys2Proof/Proofs/Mixer.lean ====
section
/-! SUPPORT. Proofs/Mixer.lean: the level each slot reports, the table entry of a level, and the sample of four of them
(41_advance_and_mix.md R124, R125, R127). -/

namespace Sys2Proof.Machine

/-! ## The level of a phase and a volume (R124) -/

@[simp] theorem levelOf_true (v : Level) : levelOf true v = v := rfl
@[simp] theorem levelOf_false (v : Level) : levelOf false v = 15 := rfl

theorem levelOf_eq_fifteen {p : Bool} {v : Level} (h : v = 15 ∨ p = false) : levelOf p v = 15 := by
  obtain rfl | rfl := h
  · exact ite_self _
  · exact levelOf_false v

/-! ## The level a slot reports (R124) -/

section
variable {ch : Slot} (c : Chip)

theorem outputLevel_square {i : Fin 3} (h : squareOf ch = some i) : outputLevel ch c = levelOf c.sq[i].phase c.sq[i].volume := by
  simp [outputLevel, h]

theorem outputLevel_noise (h : squareOf ch = none) : outputLevel ch c = levelOf c.nz.phase c.nz.volume := by
  simp [outputLevel, h]

end

/-- A chip whose four channels are silent, each by its volume or by its phase, reports level 15 in every slot. -/
theorem outputLevel_eq_fifteen {c : Chip} (hsq : ∀ i : Fin 3, c.sq[i].volume = 15 ∨ c.sq[i].phase = false)
    (hnz : c.nz.volume = 15 ∨ c.nz.phase = false) (ch : Slot) : outputLevel ch c = 15 := by
  cases h : squareOf ch with
  | some i => exact (outputLevel_square c h).trans (levelOf_eq_fifteen (hsq i))
  | none => exact (outputLevel_noise c h).trans (levelOf_eq_fifteen hnz)

/-! ## The sample (R125, R126) -/

/-- The entry of a level, by the table's own index type. -/
theorem tableEntry_eq (cfg : Config) (l : Level) : tableEntry cfg l = cfg.volTable[l.toFin] := rfl

theorem tableEntry_fifteen (cfg : Config) : tableEntry cfg 15 = cfg.volTable[15] := rfl

/-- Four slots on one level give four times its entry: nothing is scaled and no offset is taken away. -/
theorem sample_of_outputLevel_eq {c : Chip} {l : Level} (h : ∀ ch, outputLevel ch c = l) (cfg : Config) :
    sample cfg c = 4 * tableEntry cfg l := by
  simp only [sample, h]
  omega

/-! ## The obligations -/

/-- Settles O38: by the kind of the slot, a square or the noise channel, and its phase. -/
theorem outputLevelFollowsPhase : Obligations.OutputLevelFollowsPhase := by
  intro c
  have noise := outputLevel_noise c squareOf_three
  refine ⟨fun i ch hi => ?square, fun hp => ?noiseTrue, fun hp => ?noiseFalse⟩
  case square =>
    have square := outputLevel_square c (squareOf_eq_some hi)
    exact ⟨fun hp => by rw [square, hp, levelOf_true], fun hp => by rw [square, hp, levelOf_false]⟩
  case noiseTrue => exact noise.trans (by rw [hp, levelOf_true])
  case noiseFalse => exact noise.trans (by rw [hp, levelOf_false])

/-- Settles O39: each summand is the entry of one slot's level, and in a silent chip all four levels are 15. -/
theorem sampleIsUnnormalisedSum : Obligations.SampleIsUnnormalisedSum := by
  intro cfg c
  refine ⟨?sum, fun hsq hnz => ?silent⟩
  case sum => simp only [sample, tableEntry_eq]
  case silent => rw [sample_of_outputLevel_eq (outputLevel_eq_fifteen hsq hnz), tableEntry_fifteen]

end Sys2Proof.Machine
end

