-- ==== Sys2Proof/Proofs/Squares.lean ====
section
/-! SUPPORT. Proofs/Squares.lean: one clock of a square in its chip, and a square's run up to its next zero-crossing
(42_square.md R140, R142). -/

namespace Sys2Proof.Machine

/-! ## One clock in the chip (R140) -/

/-- A square clock puts the clocked square in its place and leaves the rest of the chip as it is. -/
theorem squareClock_eq (i : Fin 3) (c : Chip) : squareClock i c = { c with sq := c.sq.set i c.sq[i].clock } := rfl

/-! ## Up to the next zero-crossing (R142)

The crossing comes at clock `max counter 1`: a counter at or below one crosses at the very next clock. -/

/-- Before the crossing only the counter moves, and it does not depend on the period register. -/
theorem Square.repeatDo_clock_running {q : Square} {n : Nat} (h : n < max q.counter.toNat 1) :
    repeatDo Square.clock n q = { q with counter := q.counter - n } := by
  induction n with
  | zero => simp
  | succ n ih =>
    have running : 1 < q.counter - n := by omega
    rw [repeatDo_succ_last, ih (by omega), Square.clock_running running, Nat.cast_succ, Int.sub_sub]

/-- At the crossing the phase flips and the period register, as it stands then, is loaded. -/
theorem Square.repeatDo_clock_crossing (q : Square) :
    repeatDo Square.clock (max q.counter.toNat 1) q =
      { q with phase := !q.phase, counter := q.periodReload.toNat } := by
  obtain ⟨n, hn⟩ : ∃ n, max q.counter.toNat 1 = n + 1 := Nat.exists_eq_add_of_le' (le_max_right _ _)
  have expired : q.counter - n ≤ 1 := by omega
  rw [hn, repeatDo_succ_last, Square.repeatDo_clock_running (by omega), Square.clock_crossing expired]

/-! ## The obligations -/

/-- Settles O41: the clock of the one square either crosses or runs, by its counter. -/
theorem squareClockStep : Obligations.SquareClockStep := by
  intro i c
  rw [squareClock_eq]
  refine ⟨fun h => ?crossing, fun h => ?running⟩
  case crossing => rw [Square.clock_crossing (by omega)]
  case running => rw [Square.clock_running (by omega)]

/-- Settles O43: with either period the counter runs down alike, and the crossing loads the period written. -/
theorem squareReloadIsLazy : Obligations.SquareReloadIsLazy := by
  intro q p
  refine ⟨fun j hj => ?untilCrossing, ?atCrossing⟩
  case untilCrossing =>
    have written := Square.repeatDo_clock_running (q := { q with periodReload := p }) hj
    rw [written, Square.repeatDo_clock_running hj]
  case atCrossing => exact Square.repeatDo_clock_crossing { q with periodReload := p }

end Sys2Proof.Machine
end

