-- ==== Sys2Proof/Proofs/Noise.lean ====
section
/-! SUPPORT. Proofs/Noise.lean: the bits of the shift register after one shift, and what a shift leaves alone
(43_noise.md R152). -/

namespace Sys2Proof.Machine

/-! ## The feedback bit, by the mode (R152 (b)) -/

@[simp] theorem feedback_white (r : Lfsr) : feedback true r = (r[0] ^^ r[3]) := rfl
@[simp] theorem feedback_periodic (r : Lfsr) : feedback false r = r[0] := rfl

/-! ## The register after one shift, bit by bit (R152 (c))

Below bit 15 the feedback contributes nothing; at bit 15 the shifted register does not. -/

theorem shiftRegister_getElem_below (w : Bool) (r : Lfsr) {k : Nat} (h : k < 15) : (shiftRegister w r)[k] = r[k + 1] := by
  have vacated : ((BitVec.ofBool (feedback w r)).setWidth 16 <<< 15)[k] = false := by simp [h]
  have moved : (r >>> 1)[k] = r[k + 1] := by
    rw [BitVec.getElem_ushiftRight, Nat.add_comm, BitVec.getLsbD_eq_getElem (by omega)]
  rw [shiftRegister, BitVec.getElem_or, moved, vacated, Bool.or_false]

theorem shiftRegister_getElem_top (w : Bool) (r : Lfsr) : (shiftRegister w r)[15] = feedback w r := by
  have vacated : (r >>> 1)[15] = false := by simp
  have inserted : ((BitVec.ofBool (feedback w r)).setWidth 16 <<< 15)[15] = feedback w r := by simp
  rw [shiftRegister, BitVec.getElem_or, vacated, inserted, Bool.false_or]

/-! ## A shift of the channel: the phase and the register alone (R152) -/

section
variable (n : Noise)

@[simp] theorem Noise.shift_phase : n.shift.phase = n.lfsr[0] := rfl
@[simp] theorem Noise.shift_lfsr : n.shift.lfsr = shiftRegister n.white n.lfsr := rfl
@[simp] theorem Noise.shift_volume : n.shift.volume = n.volume := rfl
@[simp] theorem Noise.shift_mode : n.shift.mode = n.mode := rfl
@[simp] theorem Noise.shift_white : n.shift.white = n.white := rfl
@[simp] theorem Noise.shift_toggle : n.shift.toggle = n.toggle := rfl
@[simp] theorem Noise.shift_counter : n.shift.counter = n.counter := rfl

/-- Bit 15 of a shifted channel is the feedback of its own mode. -/
theorem Noise.shift_lfsr_top {w : Bool} (h : n.white = w) : n.shift.lfsr[15] = feedback w n.lfsr :=
  h ▸ shiftRegister_getElem_top n.white n.lfsr

end

/-! ## The obligation -/

/-- Settles O45: by the place of the bit, below the top or at it, and there by the mode. -/
theorem lfsrShiftBitByBit : Obligations.LfsrShiftBitByBit := by
  intro n
  refine ⟨n.shift_phase, fun k hk => ?below, fun hw => ?white, fun hw => ?periodic,
    n.shift_volume, n.shift_mode, n.shift_white, n.shift_toggle, n.shift_counter⟩
  case below => exact shiftRegister_getElem_below n.white n.lfsr hk
  case white => exact (n.shift_lfsr_top hw).trans (feedback_white n.lfsr)
  case periodic => exact (n.shift_lfsr_top hw).trans (feedback_periodic n.lfsr)

end Sys2Proof.Machine
end

