-- ==== Sys2Proof/Proofs/Exceptions.lean ====
section
/-! SUPPORT. Proofs/Exceptions.lean: a fetch that fails, the step that enters its error, and the invalid opcode
(60_exceptions.md R202, R206). -/

namespace Sys2Proof.Machine

section
variable {s : State}

/-- A step of a running interpreter below its total that cannot fetch a command enters the fetch's error (R206). -/
theorem step_of_fetch_error {e : RunError} (hr : Ready s) (hf : fetch s = .error e) : step s = .next (s.raise e) := by
  obtain ⟨running, below⟩ := hr
  rw [step_running running, commandStep_below below, hf]

/-- An opcode of none of the table's rows fails the fetch with itself and the cursor, whatever bytes follow (R202). -/
theorem fetch_invalid {op : Byte} (hop : s.stream.read s.cursor = some op)
    (invalid : ∀ r ∈ commandRows, r.covers op = false) : fetch s = .error (.unknownOpcode op s.cursor) := by
  have hdec : decodeCommand (s.stream.window s.cursor longestInstr) = .error (.unknownOpcode op) := by
    rw [longestInstr, Memory.window_succ hop, decodeCommand_invalid op invalid]
  exact fetch_error.mpr (.inr (.inl ⟨op, hdec, rfl⟩))

end

/-! ## The obligation -/

/-- Settles O10: the fetch fails with the opcode and the cursor, and raising that error sets the status alone. -/
theorem invalidOpcodeEntersFault : Obligations.InvalidOpcodeEntersFault :=
  fun _ _ hr hop invalid => step_of_fetch_error hr (fetch_invalid hop invalid)

end Sys2Proof.Machine
end

/-! SUPPORT. The family of the whole machine: the decoders against the encoder, the meanings of all instructions at once, the
laws of the writes, of chip time and of the channels, and what every step and every run keeps. -/

namespace Sys2Proof

/-! ## The PSG write byte (30_encoding.md R70 to R75) -/

section LatchByte
variable (ch : Slot) (vol : Bool) (d : BitVec 4)

theorem latchByteOf_kind : (latchByteOf ch vol d)[7] = true := by
  revert ch vol d; decide

@[simp] theorem registerAddress_latchByteOf : registerAddress (latchByteOf ch vol d) = ch ++ BitVec.ofBool vol := by
  revert ch vol d; decide

@[simp] theorem narrowData_latchByteOf : narrowData (latchByteOf ch vol d) = d := by
  revert ch vol d; decide

@[simp] theorem latchChData_latchByteOf : Machine.latchChData (latchByteOf ch vol d) = ch := by
  revert ch vol d; decide

@[simp] theorem latchVolData_latchByteOf : Machine.latchVolData (latchByteOf ch vol d) = vol := by
  revert ch vol d; decide

end LatchByte

/-- A LATCH byte is its slot, its kind and its narrow data (R71). -/
theorem latchByteOf_fields : ∀ b : Byte, b[7] = true →
    latchByteOf (Machine.latchChData b) (Machine.latchVolData b) (narrowData b) = b := by
  decide

/-- The eight forms of a LATCH byte, each with its instruction (R75). -/
inductive LatchForm : Byte → Instr → Prop
  | toneLo0 (d : BitVec 4) : LatchForm (latchByteOf 0 false d) (.toneLo0 d)
  | toneLo1 (d : BitVec 4) : LatchForm (latchByteOf 1 false d) (.toneLo1 d)
  | toneLo2 (d : BitVec 4) : LatchForm (latchByteOf 2 false d) (.toneLo2 d)
  | vol0 (d : BitVec 4) : LatchForm (latchByteOf 0 true d) (.vol0 d)
  | vol1 (d : BitVec 4) : LatchForm (latchByteOf 1 true d) (.vol1 d)
  | vol2 (d : BitVec 4) : LatchForm (latchByteOf 2 true d) (.vol2 d)
  | vol3 (d : BitVec 4) : LatchForm (latchByteOf 3 true d) (.vol3 d)
  | noiseCtrl (x w : Bool) (m : BitVec 2) : LatchForm (latchByteOf 3 false (Machine.noiseData x w m)) (.noiseCtrl x w m)

theorem slot_cases : ∀ ch : Slot, ch = 0 ∨ ch = 1 ∨ ch = 2 ∨ ch = 3 := by decide

/-- Slot, kind and data of a LATCH byte are free, and each choice has its form. -/
theorem latchForm_exists (ch : Slot) (vol : Bool) (d : BitVec 4) : ∃ i, LatchForm (latchByteOf ch vol d) i := by
  have control : ∀ d : BitVec 4, ∃ x w m, Machine.noiseData x w m = d := by decide
  obtain rfl | rfl | rfl | rfl := slot_cases ch <;> cases vol
  · exact ⟨_, .toneLo0 d⟩
  · exact ⟨_, .vol0 d⟩
  · exact ⟨_, .toneLo1 d⟩
  · exact ⟨_, .vol1 d⟩
  · exact ⟨_, .toneLo2 d⟩
  · exact ⟨_, .vol2 d⟩
  · obtain ⟨x, w, m, rfl⟩ := control d
    exact ⟨_, .noiseCtrl x w m⟩
  · exact ⟨_, .vol3 d⟩

namespace LatchForm
variable {b : Byte} {i : Instr}

theorem kind (h : LatchForm b i) : b[7] = true := by
  cases h <;> exact latchByteOf_kind _ _ _

/-- The decoder reads each form as its instruction: seven by the register address alone, NOISE_CTRL by its data bits too. -/
theorem decodeLatch_eq (h : LatchForm b i) : decodeLatch b = i := by
  cases h with
  | noiseCtrl x w m => revert x w m; decide
  | _ => simp [decodeLatch]

theorem decodeWrite_eq (h : LatchForm b i) : decodeWrite b = i :=
  (if_pos h.kind).trans h.decodeLatch_eq

theorem encode_eq (h : LatchForm b i) : encode i = [b] := by
  cases h <;> rfl

theorem level_eq (h : LatchForm b i) : i.level = .psgWrite := by
  cases h <;> rfl

theorem wellFormed (h : LatchForm b i) : i.wellFormed := by
  cases h <;> rfl

end LatchForm

theorem latchForm_decodeWrite {b : Byte} (h : b[7] = true) : LatchForm b (decodeWrite b) := by
  obtain ⟨i, hi⟩ := latchForm_exists (Machine.latchChData b) (Machine.latchVolData b) (narrowData b)
  rw [latchByteOf_fields b h] at hi
  exact hi.decodeWrite_eq ▸ hi

/-- A DATA byte is its ignored bit 6 and its wide data (R72). -/
theorem dataByte_fields : ∀ b : Byte, b[7] = false → 0#1 ++ BitVec.ofBool b[6] ++ wideData b = b := by
  decide

theorem decodeWrite_data {b : Byte} (h : b[7] = false) : decodeWrite b = .data b[6] (wideData b) := by
  rw [decodeWrite, h]
  rfl

/-- The decoder reads the two fields of a DATA byte back. -/
theorem decodeWrite_dataByte : ∀ (x : Bool) (d : WriteData), decodeWrite (0#1 ++ BitVec.ofBool x ++ d) = .data x d := by
  decide

/-- Whatever the write byte, its form is of the write level, admitted, and encodes as that byte. -/
theorem decodeWrite_spec (b : Byte) :
    (decodeWrite b).level = .psgWrite ∧ (decodeWrite b).wellFormed ∧ encode (decodeWrite b) = [b] := by
  cases h : b[7] with
  | true =>
    have form := latchForm_decodeWrite h
    exact ⟨form.level_eq, form.wellFormed, form.encode_eq⟩
  | false =>
    rw [decodeWrite_data h]
    exact ⟨rfl, rfl, congrArg ([·]) (dataByte_fields b h)⟩

/-! ## The commands (R76 to R78) -/

/-- The operand of 0x61 is its two bytes, the second the high one. -/
theorem ofNat_littleEndian_pair (lo hi : Byte) : BitVec.ofNat 16 (littleEndian [lo, hi]) = hi ++ lo := by
  have := lo.isLt
  have := hi.isLt
  apply BitVec.eq_of_toNat_eq
  rw [BitVec.toNat_ofNat, Nat.mod_eq_of_lt (littleEndian_pair_lt lo hi), BitVec.toNat_append,
    ← Nat.shiftLeft_add_eq_or_of_lt lo.isLt, Nat.shiftLeft_eq]
  simp only [littleEndian]
  omega

theorem append_extract_bytes (n : BitVec 16) : n.extractLsb' 8 8 ++ n.extractLsb' 0 8 = n :=
  (BitVec.extractLsb'_append_extractLsb'_eq_extractLsb' rfl).trans BitVec.extractLsb'_eq_self

theorem encode_wait_append (lo hi : Byte) : encode (.wait (hi ++ lo)) = [0x61, lo, hi] := by
  rw [encode, BitVec.extractLsb'_append_eq_right, BitVec.extractLsb'_append_eq_left]

theorem decodeCommand_wait_bytes (n : BitVec 16) (rest : List Byte) :
    decodeCommand (encode (.wait n) ++ rest) = .ok (.wait n, rest) := by
  change decodeCommand (0x61#8 :: n.extractLsb' 0 8 :: n.extractLsb' 8 8 :: rest) = _
  rw [decodeCommand_wait, decodeWait, ofNat_littleEndian_pair, append_extract_bytes]

/-- An opcode of the row 0x70..0x77 is an admitted WAITS and its encoding. -/
theorem waitsLow_of_opcode : ∀ op : Byte, op &&& 0xF8#8 = 0x70#8 →
    (Instr.waitsLow ((narrowData op).toNat + 1)).wellFormed ∧ encode (.waitsLow ((narrowData op).toNat + 1)) = [op] := by
  decide

/-- An opcode of the row 0x78..0x79 is an admitted WAITS and its encoding. -/
theorem waitsHigh_of_opcode : ∀ op : Byte, op &&& 0xFE#8 = 0x78#8 →
    (Instr.waitsHigh ((narrowData op).toNat + 1)).wellFormed ∧ encode (.waitsHigh ((narrowData op).toNat + 1)) = [op] := by
  decide

theorem decodeCommand_waitsLow {n : Nat} (h : (Instr.waitsLow n).wellFormed) (rest : List Byte) :
    decodeCommand (encode (.waitsLow n) ++ rest) = .ok (.waitsLow n, rest) := by
  obtain ⟨lo, hi⟩ := (wellFormed_waitsLow n).mp h
  interval_cases n <;> rfl

theorem decodeCommand_waitsHigh {n : Nat} (h : (Instr.waitsHigh n).wellFormed) (rest : List Byte) :
    decodeCommand (encode (.waitsHigh n) ++ rest) = .ok (.waitsHigh n, rest) := by
  obtain ⟨lo, hi⟩ := (wellFormed_waitsHigh n).mp h
  interval_cases n <;> rfl

/-- What is read as a command is one, admitted, and its encoding stands before the bytes that are left. -/
theorem decodeCommand_ok {bs rest : List Byte} {i : Instr} (h : decodeCommand bs = .ok (i, rest)) :
    i.level = .command ∧ i.wellFormed ∧ bs = encode i ++ rest := by
  cases bs with
  | nil => cases h
  | cons op tail =>
    rw [decodeCommand] at h
    split_ifs at h with h50 h61 h62 h63 h66 low high
    · subst h50
      cases tail with
      | nil => cases h
      | cons b tail => cases h; exact ⟨rfl, rfl, rfl⟩
    · subst h61
      match tail, h with
      | lo :: hi :: tail, h =>
        cases h
        rw [ofNat_littleEndian_pair, encode_wait_append]
        exact ⟨rfl, rfl, rfl⟩
    · cases h; exact ⟨rfl, rfl, congrArg (· :: _) h62⟩
    · cases h; exact ⟨rfl, rfl, congrArg (· :: _) h63⟩
    · cases h; exact ⟨rfl, rfl, congrArg (· :: _) h66⟩
    · cases h
      obtain ⟨wf, enc⟩ := waitsLow_of_opcode op low
      exact ⟨rfl, wf, by rw [enc, List.singleton_append]⟩
    · cases h
      obtain ⟨wf, enc⟩ := waitsHigh_of_opcode op high
      exact ⟨rfl, wf, by rw [enc, List.singleton_append]⟩

/-- Bytes that are read as a command are as many as the command is long, and those left. -/
theorem decodeCommand_length {bs rest : List Byte} {i : Instr} (h : decodeCommand bs = .ok (i, rest)) :
    i.length ≤ bs.length := by
  obtain ⟨-, -, rfl⟩ := decodeCommand_ok h
  cases i <;> simp [encode, Instr.length]

/-- An unknown opcode is the first byte. -/
theorem decodeCommand_unknownOpcode {bs : List Byte} {op : Byte} (h : decodeCommand bs = .error (.unknownOpcode op)) :
    ∃ rest, bs = op :: rest := by
  cases bs with
  | nil => cases h
  | cons b tail =>
    rw [decodeCommand] at h
    split_ifs at h
    · cases tail <;> cases h
    · match tail, h with
      | _ :: _ :: _, h => cases h
    · cases h; exact ⟨tail, rfl⟩

/-! ## The obligations -/

/-- Settles O1: by the instruction; the eight LATCH forms are `LatchForm`, the other operands are read back field by field. -/
theorem decodeInvertsEncode : Obligations.DecodeInvertsEncode := by
  intro i rest wf
  have latch {b : Byte} {j : Instr} (h : LatchForm b j) : decodeAt j.level (encode j ++ rest) = .ok (j, rest) := by
    rw [h.level_eq, h.encode_eq, List.singleton_append, decodeAt, h.decodeWrite_eq]
  cases i with
  | toneLo0 d => exact latch (.toneLo0 d)
  | toneLo1 d => exact latch (.toneLo1 d)
  | toneLo2 d => exact latch (.toneLo2 d)
  | vol0 d => exact latch (.vol0 d)
  | vol1 d => exact latch (.vol1 d)
  | vol2 d => exact latch (.vol2 d)
  | vol3 d => exact latch (.vol3 d)
  | noiseCtrl x w m => exact latch (.noiseCtrl x w m)
  | data x d => exact congrArg (fun j => Except.ok (j, rest)) (decodeWrite_dataByte x d)
  | psg b => exact decodeCommand_psg (b :: rest)
  | wait n => exact decodeCommand_wait_bytes n rest
  | wait735 => exact decodeCommand_wait735 rest
  | wait882 => exact decodeCommand_wait882 rest
  | endMark => exact decodeCommand_endMark rest
  | waitsLow n => exact decodeCommand_waitsLow wf rest
  | waitsHigh n => exact decodeCommand_waitsHigh wf rest

/-- Settles O2: a write byte is read by `decodeWrite`, which encodes back, and a command by `decodeCommand`. -/
theorem encodeInvertsDecode : Obligations.EncodeInvertsDecode := by
  intro lv bs rest i h
  cases lv with
  | command => exact decodeCommand_ok h
  | psgWrite =>
    cases bs with
    | nil => cases h
    | cons b tail =>
      cases h
      obtain ⟨level, wf, enc⟩ := decodeWrite_spec b
      exact ⟨level, wf, by rw [enc, List.singleton_append]⟩

/-- Settles O3: both maps are tables of 256 bytes. -/
theorem decodersFollowOpcodeTable : Obligations.DecodersFollowOpcodeTable := by
  constructor
  · decide
  · decide

/-- Settles O4: nineteen words, each read by the decoder. -/
theorem specWordsDecode : Obligations.SpecWordsDecode := by
  unfold Obligations.SpecWordsDecode
  decide

end Sys2Proof

namespace Sys2Proof.Machine

/-! ## Reading the byte sequence (20_memory.md R53) -/

theorem Memory.window_of_read_none {m : Memory} {a : Nat} (h : m.read a = none) (n : Nat) : m.window a n = [] := by
  cases n with
  | zero => rfl
  | succ n => simp [Memory.window, h]

theorem memRead_overrun {m : Memory} (wf : m.wf) {a n : Nat} (hn : 0 < n) (h : m.len < a + n) :
    memRead m a n = .error (.streamOverrun a) := by
  have short : (m.window a n).length ≠ n := by
    rw [Memory.window_length m wf]
    omega
  exact if_neg short

theorem littleEndian_pair (lo hi : Byte) : littleEndian [lo, hi] = lo.toNat ||| hi.toNat <<< 8 := by
  rw [Nat.or_comm, ← Nat.shiftLeft_add_eq_or_of_lt lo.isLt, Nat.shiftLeft_eq]
  simp only [littleEndian]
  omega

/-! ## A register write of either kind (40_write_protocol.md R100 to R103) -/

/-- The write of LATCH and DATA bytes alike: the latch holds the register, then its data is written. A DATA byte writes the
register that is latched already. -/
def registerWrite (ch : Slot) (vol : Bool) (d : WriteData) (wide : Bool) (c : Chip) : Chip :=
  applyWrite ch vol d wide { c with latchCh := ch, latchVol := vol }

theorem latchWrite_eq (ch : Slot) (vol : Bool) (d : BitVec 4) (c : Chip) :
    latchWrite ch vol d c = registerWrite ch vol (widenNarrow d) false c := rfl

theorem dataWrite_eq (d : WriteData) (c : Chip) : dataWrite d c = registerWrite c.latchCh c.latchVol d true c := rfl

theorem registerAddress_eq : ∀ b : Byte, registerAddress b = latchChData b ++ BitVec.ofBool (latchVolData b) := by
  decide

/-- `writeRegister` writes one register: the one a LATCH byte selects, the latched one for a DATA byte. -/
theorem writeRegister_eq (b : Byte) (c : Chip) : ∃ ch vol d w,
    (if b[7] then registerAddress b else latchAddress c) = ch ++ BitVec.ofBool vol ∧
      writeRegister b c = registerWrite ch vol d w c := by
  cases h : b[7] with
  | true => exact ⟨_, _, _, _, registerAddress_eq b, writeRegister_latch h c⟩
  | false => exact ⟨_, _, _, _, rfl, writeRegister_data h c⟩

section Frame
variable (ch : Slot) (vol : Bool) (d : WriteData) (w : Bool) (c : Chip)

@[simp] theorem registerWrite_latchCh : (registerWrite ch vol d w c).latchCh = ch := by simp [registerWrite]
@[simp] theorem registerWrite_latchVol : (registerWrite ch vol d w c).latchVol = vol := by simp [registerWrite]
@[simp] theorem registerWrite_div : (registerWrite ch vol d w c).div = c.div := by simp [registerWrite]
@[simp] theorem registerWrite_lfsr : (registerWrite ch vol d w c).nz.lfsr = c.nz.lfsr := by simp [registerWrite]
@[simp] theorem registerWrite_toggle : (registerWrite ch vol d w c).nz.toggle = c.nz.toggle := by simp [registerWrite]
@[simp] theorem registerWrite_noiseCounter : (registerWrite ch vol d w c).nz.counter = c.nz.counter := by
  simp [registerWrite]
@[simp] theorem registerWrite_noisePhase : (registerWrite ch vol d w c).nz.phase = c.nz.phase := by simp [registerWrite]

theorem registerWrite_squareCounter (j : Fin 3) : (registerWrite ch vol d w c).sq[j].counter = c.sq[j].counter :=
  applyWrite_squareCounter ch vol d w _ j

theorem registerWrite_squarePhase (j : Fin 3) : (registerWrite ch vol d w c).sq[j].phase = c.sq[j].phase :=
  applyWrite_squarePhase ch vol d w _ j

end Frame

/-! ## Writing twice (20_memory.md R58) -/

theorem Chip.updateSquare_idempotent {f : Square → Square} (hf : ∀ q, f (f q) = f q) (i : Fin 3) (c : Chip) :
    (c.updateSquare i f).updateSquare i f = c.updateSquare i f := by
  simp [Chip.updateSquare, hf]

theorem periodData_idempotent (old : Period) (d : WriteData) (w : Bool) :
    periodData (periodData old d w) d w = periodData old d w := by
  cases w with
  | true => exact congrArg (d ++ ·) BitVec.extractLsb'_append_eq_right
  | false => exact congrArg (· ++ d.extractLsb' 0 4) BitVec.extractLsb'_append_eq_left

/-- By the register's kind and slot. -/
theorem applyWrite_idempotent (ch : Slot) (vol : Bool) (d : WriteData) (w : Bool) (c : Chip) :
    applyWrite ch vol d w (applyWrite ch vol d w c) = applyWrite ch vol d w c := by
  cases hs : squareOf ch with
  | some i =>
    cases vol with
    | true => simp only [applyWrite_volume_square hs]; apply Chip.updateSquare_idempotent; exact fun _ => rfl
    | false =>
      simp only [applyWrite_period hs]
      exact Chip.updateSquare_idempotent (fun q => by rw [periodData_idempotent]) i c
  | none =>
    cases vol with
    | true => simp only [applyWrite_volume_noise hs]
    | false => simp only [applyWrite_noise hs]

theorem Chip.latch_eq_self {ch : Slot} {vol : Bool} {c : Chip} (hch : c.latchCh = ch) (hvol : c.latchVol = vol) :
    { c with latchCh := ch, latchVol := vol } = c := by
  subst hch hvol
  rfl

theorem registerWrite_idempotent (ch : Slot) (vol : Bool) (d : WriteData) (w : Bool) (c : Chip) :
    registerWrite ch vol d w (registerWrite ch vol d w c) = registerWrite ch vol d w c := by
  have latched := Chip.latch_eq_self (registerWrite_latchCh ch vol d w c) (registerWrite_latchVol ch vol d w c)
  rw [registerWrite, latched, registerWrite, applyWrite_idempotent]

/-! ## The register-file view (10_state.md R37) -/

/-- What the register of a slot holds: the volume, or the period of a square, or the noise control of slot 3. -/
def registerAt (slot : Option (Fin 3)) (vol : Bool) (c : Chip) : BitVec 10 :=
  match slot, vol with
  | some i, true => c.sq[i].volume.setWidth 10
  | some i, false => c.sq[i].periodReload
  | none, true => c.nz.volume.setWidth 10
  | none, false => (BitVec.ofBool c.nz.white ++ c.nz.mode).setWidth 10

theorem registerView_append (ch : Slot) (vol : Bool) (c : Chip) :
    registerView (ch ++ BitVec.ofBool vol) c = registerAt (squareOf ch) vol c := by
  obtain rfl | rfl | rfl | rfl := slot_cases ch <;> cases vol <;> rfl

theorem register_address_cases : ∀ r : BitVec 3, ∃ (ch : Slot) (vol : Bool), r = ch ++ BitVec.ofBool vol := by
  decide

theorem squareOf_injective : ∀ ch ch' : Slot, squareOf ch = squareOf ch' → ch = ch' := by
  decide

section
variable {slot : Option (Fin 3)} {vol : Bool} {c : Chip}

theorem registerAt_updateSquare_other {i : Fin 3} (h : slot ≠ some i) (f : Square → Square) :
    registerAt slot vol (c.updateSquare i f) = registerAt slot vol c := by
  cases slot with
  | none => cases vol <;> rfl
  | some j =>
    have other : i ≠ j := fun e => h (congrArg some e.symm)
    cases vol <;> simp only [registerAt, Chip.updateSquare_other c i j f other]

/-- A write leaves the registers of the other slots alone. -/
theorem registerAt_applyWrite_other_slot {ch : Slot} (h : slot ≠ squareOf ch) (vol' : Bool) (d : WriteData) (w : Bool) :
    registerAt slot vol (applyWrite ch vol' d w c) = registerAt slot vol c := by
  rcases applyWrite_cases ch vol' d w c with ⟨i, f, hs, write, -⟩ | ⟨v, m, wh, hs, write⟩ <;> rw [hs] at h <;> rw [write]
  · exact registerAt_updateSquare_other h f
  · obtain ⟨j, rfl⟩ := Option.ne_none_iff_exists'.mp h
    cases vol <;> rfl

/-- A write leaves every other register alone: it differs in the slot, or in the kind. -/
theorem registerAt_applyWrite {ch : Slot} {vol' : Bool} (h : slot = squareOf ch → vol ≠ vol') (d : WriteData) (w : Bool) :
    registerAt slot vol (applyWrite ch vol' d w c) = registerAt slot vol c := by
  by_cases same : slot = squareOf ch
  · obtain rfl : vol = !vol' := Bool.eq_not.mpr (h same)
    subst same
    cases hs : squareOf ch with
    | some i =>
      cases vol' with
      | true => simp only [applyWrite_volume_square hs, registerAt, Chip.updateSquare_same, Bool.not_true]
      | false => simp only [applyWrite_period hs, registerAt, Chip.updateSquare_same, Bool.not_false]
    | none =>
      cases vol' with
      | true => rw [applyWrite_volume_noise hs]; rfl
      | false => rw [applyWrite_noise hs]; rfl
  · exact registerAt_applyWrite_other_slot same vol' d w

end

/-- Every register but the one written keeps its value (R110). -/
theorem registerView_registerWrite {r : BitVec 3} {ch : Slot} {vol : Bool} (h : r ≠ ch ++ BitVec.ofBool vol) (d : WriteData)
    (w : Bool) (c : Chip) : registerView r (registerWrite ch vol d w c) = registerView r c := by
  obtain ⟨ch', vol', rfl⟩ := register_address_cases r
  have other : squareOf ch' = squareOf ch → vol' ≠ vol := fun slots kinds =>
    h (by rw [squareOf_injective ch' ch slots, kinds])
  rw [registerView_append, registerView_append]
  exact (registerAt_applyWrite other d w).trans (by cases vol' <;> cases squareOf ch' <;> rfl)

/-- Rendering leaves all eight registers alone. -/
theorem registerView_render (r : BitVec 3) (n : Nat) (s : State) :
    registerView r (render n s).chip = registerView r s.chip := by
  obtain ⟨ch, vol, rfl⟩ := register_address_cases r
  rw [registerView_append, registerView_append]
  cases squareOf ch with
  | some i =>
    cases vol with
    | true => exact congrArg (BitVec.setWidth 10) (render_squareVolume n s i)
    | false => exact render_periodReload n s i
  | none => cases vol <;> simp only [registerAt, render_noiseVolume, render_mode, render_white]

/-! ## The meanings of all instructions (R100; 44_command_stream.md R175 to R180) -/

/-- The bytes by which a meaning moves the cursor: a command's length; a write form leaves it to its carrier (log 8). -/
def cursorStep (i : Instr) : Nat := if i.level = .command then i.length else 0

theorem exec_wait_eq {i : Instr} {n : Nat} (h : waitSamples i = some n) (s : State) :
    exec i s = .next ((render n s).skip i.length) := by
  cases i <;> cases h <;> rfl

theorem writeTarget_wait {i : Instr} {n : Nat} (h : waitSamples i = some n) (c : Chip) : writeTarget i c = none := by
  cases i <;> cases h <;> rfl

theorem cursorStep_wait {i : Instr} {n : Nat} (h : waitSamples i = some n) : cursorStep i = i.length := by
  cases i <;> cases h <;> rfl

theorem exec_psg (b : Byte) (s : State) : exec (.psg b) s = .next ((s.onChip (writeRegister b)).skip 2) := rfl

/-- `i` is a write at state `s`: it writes the register that is its target, moves the cursor, and does nothing else. -/
def IsWriteAt (i : Instr) (s : State) : Prop :=
  ∃ ch vol d w, writeTarget i s.chip = some (ch ++ BitVec.ofBool vol) ∧
    exec i s = .next ((s.onChip (registerWrite ch vol d w)).skip (cursorStep i))

/-- Every instruction but the waits and the end mark is a write: nine forms and PSG. -/
theorem isWriteAt_of_not_wait {i : Instr} (hwait : waitSamples i = none) (hend : i ≠ .endMark) (s : State) :
    IsWriteAt i s := by
  cases i with
  | toneLo0 d => exact ⟨0, false, widenNarrow d, false, rfl, rfl⟩
  | toneLo1 d => exact ⟨1, false, widenNarrow d, false, rfl, rfl⟩
  | toneLo2 d => exact ⟨2, false, widenNarrow d, false, rfl, rfl⟩
  | vol0 d => exact ⟨0, true, widenNarrow d, false, rfl, rfl⟩
  | vol1 d => exact ⟨1, true, widenNarrow d, false, rfl, rfl⟩
  | vol2 d => exact ⟨2, true, widenNarrow d, false, rfl, rfl⟩
  | vol3 d => exact ⟨3, true, widenNarrow d, false, rfl, rfl⟩
  | noiseCtrl x w m => exact ⟨3, false, widenNarrow (noiseData x w m), false, rfl, rfl⟩
  | data x d => exact ⟨s.chip.latchCh, s.chip.latchVol, d, true, rfl, rfl⟩
  | psg b =>
    obtain ⟨ch, vol, d, w, target, write⟩ := writeRegister_eq b s.chip
    refine ⟨ch, vol, d, w, congrArg some target, ?_⟩
    rw [exec_psg, State.onChip, write]
    rfl
  | endMark => exact absurd rfl hend
  | wait n => cases hwait
  | wait735 => cases hwait
  | wait882 => cases hwait
  | waitsLow n => cases hwait
  | waitsHigh n => cases hwait

/-- Everything an instruction can do: a wait renders, the end mark ends the run, any other instruction writes one register. -/
theorem exec_cases {i : Instr} {s t : State} (h : exec i s = .next t) :
    (∃ n, waitSamples i = some n ∧ t = (render n s).skip i.length) ∨
    (i = .endMark ∧ t = { s with status := .endMarker }) ∨
    (waitSamples i = none ∧ i ≠ .endMark ∧ ∃ ch vol d w, writeTarget i s.chip = some (ch ++ BitVec.ofBool vol) ∧
      t = (s.onChip (registerWrite ch vol d w)).skip (cursorStep i)) := by
  cases hw : waitSamples i with
  | some n =>
    rw [exec_wait_eq hw] at h
    cases h
    exact .inl ⟨n, rfl, rfl⟩
  | none =>
    by_cases hend : i = .endMark
    · subst hend
      cases h
      exact .inr (.inl ⟨rfl, rfl⟩)
    · obtain ⟨ch, vol, d, w, target, result⟩ := isWriteAt_of_not_wait hw hend s
      rw [result] at h
      cases h
      exact .inr (.inr ⟨rfl, hend, ch, vol, d, w, target, rfl⟩)

/-- No instruction stops. -/
theorem exec_next (i : Instr) (s : State) : ∃ t, exec i s = .next t := by
  cases i <;> exact ⟨_, rfl⟩

/-! ## A write byte is the write form it decodes to (R100, R75) -/

theorem exec_latchForm {b : Byte} {i : Instr} (h : LatchForm b i) (s : State) :
    exec i s = .next (s.onChip (latchWrite (latchChData b) (latchVolData b) (narrowData b))) := by
  cases h <;> simp only [latchChData_latchByteOf, latchVolData_latchByteOf, narrowData_latchByteOf] <;> rfl

theorem exec_decodeWrite (b : Byte) (s : State) : exec (decodeWrite b) s = .next (s.onChip (writeRegister b)) := by
  cases h : b[7] with
  | true => exact eq_next_onChip_congr (exec_latchForm (latchForm_decodeWrite h) s) (writeRegister_latch h s.chip).symm
  | false =>
    rw [decodeWrite_data h]
    exact eq_next_onChip_congr (exec_data s b[6] (wideData b)) (writeRegister_data h s.chip).symm

end Sys2Proof.Machine

namespace Sys2Proof.Machine

/-! ## Rendering in closed form (44_command_stream.md R172) -/

theorem advance_add (cfg : Config) (m n : Nat) (c : Chip) : advance cfg (m + n) c = advance cfg n (advance cfg m c) :=
  repeatDo_add _ m n c

/-- `s` after m samples, all below the total. -/
def rendered (s : State) (m : Nat) : State :=
  { s with
    chip := advance s.cfg (m * s.tps) s.chip
    count := s.count + m
    buf := s.buf ++ (List.range m).map fun j => sample s.cfg (advance s.cfg ((j + 1) * s.tps) s.chip) }

theorem rendered_zero (s : State) : rendered s 0 = s := by
  simp [rendered, advance]

/-- One sample more is one pass of `render` more. -/
theorem renderOne_rendered {s : State} {m : Nat} (h : m < s.total - s.count) :
    renderOne (rendered s m) = rendered s (m + 1) := by
  have below : (rendered s m).count < (rendered s m).total := by
    simp only [rendered]
    omega
  rw [renderOne_below below]
  simp only [rendered, State.onChip, State.emit, ← advance_add, List.range_succ, List.map_append, List.map_singleton,
    List.append_assoc, Nat.succ_mul, Nat.add_assoc]

theorem render_eq_rendered {s : State} {m : Nat} (h : m ≤ s.total - s.count) : render m s = rendered s m := by
  induction m with
  | zero => rw [render_zero, rendered_zero]
  | succ m ih => rw [render_succ_last, ih (by omega), renderOne_rendered h]

theorem render_done {s : State} (h : s.total ≤ s.count) (n : Nat) : render n s = s := by
  induction n with
  | zero => rfl
  | succ n ih => rw [render_succ, renderOne_done h, ih]

/-- Rendering n samples is rendering those that are left below the total (D11). -/
theorem render_clamped (n : Nat) (s : State) : render n s = rendered s (min n (s.total - s.count)) := by
  rcases Nat.le_total n (s.total - s.count) with h | h
  · rw [Nat.min_eq_left h, render_eq_rendered h]
  · have full : s.total ≤ (rendered s (s.total - s.count)).count := by
      simp only [rendered]
      omega
    obtain ⟨k, rfl⟩ := Nat.exists_eq_add_of_le h
    rw [Nat.min_eq_right h, render_add, render_eq_rendered le_rfl, render_done full]

/-! ## The two parts of a period (40_write_protocol.md R106, R107) -/

theorem period_parts (p : Period) : p.extractLsb' 4 6 ++ p.extractLsb' 0 4 = p :=
  (BitVec.extractLsb'_append_extractLsb'_eq_extractLsb' rfl).trans BitVec.extractLsb'_eq_self

/-- Wide data joins the narrow data written before it. -/
theorem wide_after_narrow (old : BitVec 6) (p : Period) :
    p.extractLsb' 4 6 ++ (old ++ p.extractLsb' 0 4).extractLsb' 0 4 = p := by
  rw [BitVec.extractLsb'_append_eq_right, period_parts]

/-- Narrow data joins the wide data written before it. -/
theorem narrow_after_wide (old : BitVec 4) (p : Period) :
    (p.extractLsb' 4 6 ++ old).extractLsb' 4 6 ++ p.extractLsb' 0 4 = p := by
  rw [BitVec.extractLsb'_append_eq_left, period_parts]

/-! ## The obligations -/

/-- Settles O6: the reads that succeed are assembled byte by byte, the others come short. -/
theorem memReadAssemblesLittleEndian : Obligations.MemReadAssemblesLittleEndian := by
  intro m a wf
  exact ⟨fun b hb => memRead_one.mpr ⟨b, hb, rfl⟩,
    fun lo hi hlo hhi => memRead_two.mpr ⟨lo, hi, hlo, hhi, littleEndian_pair lo hi⟩,
    memRead_overrun wf Nat.one_pos, memRead_overrun wf Nat.two_pos⟩

/-- Settles O24: that is the meaning of PSG. -/
theorem psgWritesRegister : Obligations.PsgWritesRegister :=
  fun s b => exec_psg b s

/-- Settles O25: the write form and PSG both perform `writeRegister`. -/
theorem psgRefinesWriteForms : Obligations.PsgRefinesWriteForms :=
  fun s b => ⟨_, exec_decodeWrite b s, exec_psg b s⟩

/-- Settles O26: each byte replaces its own bits of the period and keeps the other's. -/
theorem splitWriteCombines : Obligations.SplitWriteCombines := by
  intro c i ch p hi
  have slot := squareOf_eq_some hi
  refine ⟨?latchFirst, fun hch hvol => ?dataFirst⟩
  case latchFirst =>
    have latched : squareOf (latchWrite ch false (p.extractLsb' 0 4) c).latchCh = some i := by rw [latchWrite_latchCh, slot]
    rw [dataWrite_period _ (latchWrite_latchVol ..) latched, latchWrite_period slot]
    simpa using wide_after_narrow _ p
  case dataFirst =>
    have latched : squareOf c.latchCh = some i := by rw [hch, slot]
    rw [latchWrite_period slot, dataWrite_period _ hvol latched]
    simpa using narrow_after_wide _ p

/-- Settles O27: a write byte is one register write, to the register that is latched after it. -/
theorem repeatedWriteIsIdempotent : Obligations.RepeatedWriteIsIdempotent := by
  intro b c
  cases h : b[7] with
  | true => simp only [writeRegister_latch h, latchWrite_eq, registerWrite_idempotent]
  | false =>
    simp only [writeRegister_data h, dataWrite_eq, registerWrite_latchCh, registerWrite_latchVol, registerWrite_idempotent]

/-- Settles O28: a write latches its target, a wait and the end mark have none and keep the latch. -/
theorem latchFollowsWrites : Obligations.LatchFollowsWrites := by
  intro i s t h
  rcases exec_cases h with ⟨n, hw, rfl⟩ | ⟨rfl, rfl⟩ | ⟨-, -, ch, vol, d, w, target, rfl⟩
  · exact ⟨by simp [writeTarget_wait hw], fun _ => by simp⟩
  · exact ⟨by simp [writeTarget], fun _ => ⟨rfl, rfl⟩⟩
  · exact ⟨by simp [target, latchAddress], by simp [target]⟩

/-- Settles O29: rendering and the end mark keep all registers, a write all but its target. -/
theorem onlyTargetRegisterChanges : Obligations.OnlyTargetRegisterChanges := by
  intro i s t r h other
  rcases exec_cases h with ⟨n, -, rfl⟩ | ⟨-, rfl⟩ | ⟨-, -, ch, vol, d, w, target, rfl⟩
  · exact registerView_render r n s
  · rfl
  · exact registerView_registerWrite (fun e => other (by rw [target, e])) d w s.chip

/-- Settles O30: what a register write leaves alone. -/
theorem writesLeaveCountersAlone : Obligations.WritesLeaveCountersAlone := by
  intro i s t hw h
  rcases exec_cases h with ⟨n, hn, -⟩ | ⟨-, rfl⟩ | ⟨-, -, ch, vol, d, w, -, rfl⟩
  · rw [hw] at hn
    cases hn
  · exact ⟨fun k => ⟨rfl, rfl⟩, rfl, rfl, rfl, rfl, rfl, rfl, rfl⟩
  · refine ⟨fun k => ⟨registerWrite_squareCounter ch vol d w s.chip k, registerWrite_squarePhase ch vol d w s.chip k⟩, ?_⟩
    simp

/-- Settles O31: rendering, a register write and the end mark leave the inputs of the run alone. -/
theorem execLeavesInputsAlone : Obligations.ExecLeavesInputsAlone := by
  intro i s t h
  rcases exec_cases h with ⟨n, -, rfl⟩ | ⟨-, rfl⟩ | ⟨-, -, ch, vol, d, w, -, rfl⟩ <;> simp

theorem exec_cursor {i : Instr} {s t : State} (h : exec i s = .next t) (hend : i ≠ .endMark) :
    t.cursor = s.cursor + cursorStep i ∧ t.status = s.status := by
  rcases exec_cases h with ⟨n, hw, rfl⟩ | ⟨e, -⟩ | ⟨-, -, ch, vol, d, w, -, rfl⟩
  · simp [cursorStep_wait hw]
  · exact absurd e hend
  · simp

/-- Settles O32: by `cursorStep`, which is a command's length and nothing for a write form. -/
theorem cursorAdvancesByLength : Obligations.CursorAdvancesByLength := by
  intro i s t h
  by_cases hend : i = .endMark
  · subst hend
    cases h
    simp
  · obtain ⟨cursor, status⟩ := exec_cursor h hend
    refine ⟨fun command _ => ?command, fun other => ?writeForm, fun _ => status⟩
    case command => rw [cursor, cursorStep, if_pos command]
    case writeForm =>
      have form : i.level ≠ .command := by simp [other.resolve_right hend]
      rw [cursor, cursorStep, if_neg form, Nat.add_zero]

/-- Settles O33: every wait renders, and rendering is clamped at the total. -/
theorem waitsRenderClampedSamples : Obligations.WaitsRenderClampedSamples := by
  intro i n s hw
  rw [exec_wait_eq hw, render_clamped]
  rfl

/-- Settles O34: with no cycle between the samples, each is the mix of the present chip. -/
theorem zeroTicksRepeatOneSample : Obligations.ZeroTicksRepeatOneSample := by
  intro i n s hw htps
  refine ⟨_, exec_wait_eq hw s, ?chip, ?buf⟩ <;> rw [render_clamped]
  case chip => simp [rendered, htps, advance]
  case buf => simp [rendered, htps, advance]

end Sys2Proof.Machine

namespace Sys2Proof.Machine

/-! ## The prescaler over n chip cycles (41_advance_and_mix.md, prescaler law) -/

theorem clockAll_with_div (cfg : Config) (c : Chip) (k : Int) :
    clockAll cfg { c with div := k } = { clockAll cfg c with div := k } := rfl

theorem advance_succ (cfg : Config) (n : Nat) (c : Chip) : advance cfg (n + 1) c = chipCycle cfg (advance cfg n c) :=
  repeatDo_succ_last _ n c

/-- How often n cycles clock the channels, from a prescaler of d: the law's k(d, n). -/
def channelClocks (d n : Nat) : Nat := if n < d then 0 else 1 + (n - d) / 16

/-- The prescaler n cycles after it held d. -/
def prescalerAfter (d n : Nat) : Int := if n < d then (d : Int) - n else 16 - ((n - d) % 16 : Nat)

/-- A cycle that finds the prescaler at 1 clocks the channels and reloads it. -/
theorem prescaler_expiring {d n : Nat} (h : prescalerAfter d n ≤ 1) :
    channelClocks d (n + 1) = channelClocks d n + 1 ∧ prescalerAfter d (n + 1) = 16 := by
  unfold prescalerAfter at h ⊢
  unfold channelClocks
  split_ifs at h ⊢ <;> omega

/-- Any other cycle counts it down. -/
theorem prescaler_counting {d n : Nat} (h : 1 < prescalerAfter d n) :
    channelClocks d (n + 1) = channelClocks d n ∧ prescalerAfter d (n + 1) = prescalerAfter d n - 1 := by
  unfold prescalerAfter at h ⊢
  unfold channelClocks
  split_ifs at h ⊢ <;> omega

theorem advance_eq_clocks (cfg : Config) {d : Nat} (low : 1 ≤ d) {c : Chip} (hdiv : c.div = d) (n : Nat) :
    advance cfg n c = { repeatDo (clockAll cfg) (channelClocks d n) c with div := prescalerAfter d n } := by
  induction n with
  | zero =>
    have start : prescalerAfter d 0 = c.div := by simp [prescalerAfter, show 0 < d from low, hdiv]
    have none : channelClocks d 0 = 0 := if_pos low
    rw [start, none]
    rfl
  | succ n ih =>
    rw [advance_succ, ih]
    by_cases h : prescalerAfter d n ≤ 1
    · obtain ⟨clocks, reloaded⟩ := prescaler_expiring h
      rw [chipCycle_expiring h, clocks, reloaded, repeatDo_succ_last, clockAll_with_div]
    · obtain ⟨clocks, counted⟩ := prescaler_counting (Int.not_le.mp h)
      rw [chipCycle_counting (Int.not_le.mp h), clocks, counted]

/-! ## The four clocks (41_advance_and_mix.md R121) -/

theorem squareClock_comm (i j : Fin 3) (c : Chip) : squareClock i (squareClock j c) = squareClock j (squareClock i c) := by
  by_cases hij : i = j
  · rw [hij]
  · have other : (i : Nat) ≠ j := fun e => hij (Fin.ext e)
    simp only [squareClock_eq, Fin.getElem_fin, Vector.getElem_set_ne _ _ other, Vector.getElem_set_ne _ _ other.symm]
    rw [Vector.set_comm _ _ other]

theorem squareClock_noiseClock_comm (cfg : Config) (i : Fin 3) (c : Chip) :
    squareClock i (noiseClock cfg c) = noiseClock cfg (squareClock i c) := by
  rw [noiseClock, noiseClock, noiseReload_squareClock]
  rfl

/-! ## The sample (R125, R126, R128) -/

theorem tableEntry_le {cfg : Config} (wf : cfg.wf) (l : Level) : tableEntry cfg l ≤ cfg.volTable[15] := by
  obtain ⟨maximum, -, -⟩ := wf
  exact maximum l.toFin

theorem sample_le {cfg : Config} (wf : cfg.wf) (c : Chip) : sample cfg c ≤ 4 * cfg.volTable[15] := by
  have h0 := tableEntry_le wf (outputLevel 0 c)
  have h1 := tableEntry_le wf (outputLevel 1 c)
  have h2 := tableEntry_le wf (outputLevel 2 c)
  have h3 := tableEntry_le wf (outputLevel 3 c)
  unfold sample
  omega

theorem lt_two_pow_bitLength (n : Nat) : n < 2 ^ bitLength n := by
  unfold bitLength
  split_ifs with h
  · simp [h]
  · exact Nat.lt_log2_self

/-! ## A square over many clocks (42_square.md, toggle interval law) -/

theorem decide_odd_succ (a : Nat) : decide ((a + 1) % 2 = 1) = !decide (a % 2 = 1) := by
  rcases Nat.mod_two_eq_zero_or_one a with h | h <;> simp [Nat.add_mod, h]

section Interval
variable {q : Square} (h : q.counter = q.periodReload.toNat)
include h

/-- From a reload, a whole number of intervals flips the phase that often and comes back to the reload. -/
theorem Square.repeatDo_clock_intervals (a : Nat) :
    repeatDo Square.clock (a * max q.periodReload.toNat 1) q = { q with phase := q.phase ^^ decide (a % 2 = 1) } := by
  induction a with
  | zero => simp
  | succ a ih =>
    have counter : q.counter.toNat = q.periodReload.toNat := by omega
    have crossing := Square.repeatDo_clock_crossing { q with phase := q.phase ^^ decide (a % 2 = 1) }
    rw [counter] at crossing
    rw [Nat.succ_mul, repeatDo_add, ih, crossing, decide_odd_succ, Bool.xor_not, h]

/-- From a reload, n clocks are whole intervals and the rest of one. -/
theorem Square.repeatDo_clock_reloaded (n : Nat) :
    repeatDo Square.clock n q = { q with
      phase := q.phase ^^ decide (n / max q.periodReload.toNat 1 % 2 = 1)
      counter := (q.periodReload.toNat : Int) - (n % max q.periodReload.toNat 1 : Nat) } := by
  have split : n / max q.periodReload.toNat 1 * max q.periodReload.toNat 1 + n % max q.periodReload.toNat 1 = n :=
    Nat.div_add_mod' _ _
  have counter : q.counter.toNat = q.periodReload.toNat := by omega
  have rest : n % max q.periodReload.toNat 1 < max q.counter.toNat 1 := by
    rw [counter]
    exact Nat.mod_lt _ (Nat.lt_of_lt_of_le Nat.one_pos (le_max_right _ _))
  conv_lhs => rw [← split, repeatDo_add, Square.repeatDo_clock_intervals h]
  rw [Square.repeatDo_clock_running, h]
  exact rest

end Interval

/-! ## The noise channel (43_noise.md R150 to R154) -/

/-- The reload value is the period register of slot 2 at most, of all three squares. -/
theorem noiseReload_congr {c c' : Chip} (hnz : c'.nz = c.nz) (hperiod : c'.sq[2].periodReload = c.sq[2].periodReload)
    (cfg : Config) : noiseReload cfg c' = noiseReload cfg c := by
  rw [noiseReload, noiseReload, hnz, hperiod]

theorem noiseReload_fixed {cfg : Config} {c : Chip} (h : c.nz.mode.toNat < 3) :
    noiseReload cfg c = cfg.noisePeriods[c.nz.mode.toNat] := dif_pos h

theorem noiseReload_borrowed {cfg : Config} {c : Chip} (h : c.nz.mode = 3) :
    noiseReload cfg c = c.sq[2].periodReload.toNat :=
  dif_neg (by simp [h])

/-- Before the crossing only the counter moves. -/
theorem Noise.repeatDo_clock_running {n : Noise} {k : Nat} (h : k < max n.counter.toNat 1) (p : Nat) :
    repeatDo (Noise.clock p) k n = { n with counter := n.counter - k } := by
  induction k with
  | zero => simp
  | succ k ih =>
    have running : 1 < n.counter - k := by omega
    rw [repeatDo_succ_last, ih (by omega), Noise.clock_running running, Nat.cast_succ, Int.sub_sub]

section Crossing
variable {n : Noise} {p : Nat} (h : n.counter = p)
include h

/-- The clocks up to the crossing are those before it, and the clock of an expired counter. -/
theorem Noise.repeatDo_clock_to_crossing : ∃ k : Int, n.counter - k ≤ 1 ∧
    repeatDo (Noise.clock p) (max p 1) n = Noise.clock p { n with counter := n.counter - k } := by
  obtain ⟨k, hk⟩ : ∃ k, max p 1 = k + 1 := Nat.exists_eq_add_of_le' (le_max_right _ _)
  refine ⟨k, by omega, ?_⟩
  rw [hk, repeatDo_succ_last, Noise.repeatDo_clock_running (by omega)]

theorem Noise.repeatDo_clock_shifting (ht : n.toggle = false) :
    repeatDo (Noise.clock p) (max p 1) n = { n.shift with toggle := true, counter := p } := by
  obtain ⟨k, expired, crossing⟩ := Noise.repeatDo_clock_to_crossing h
  exact crossing.trans (Noise.clock_shifting (n := { n with counter := n.counter - k }) expired ht p)

theorem Noise.repeatDo_clock_silent (ht : n.toggle = true) :
    repeatDo (Noise.clock p) (max p 1) n = { n with toggle := false, counter := p } := by
  obtain ⟨k, expired, crossing⟩ := Noise.repeatDo_clock_to_crossing h
  exact crossing.trans (Noise.clock_silent (n := { n with counter := n.counter - k }) expired ht p)

/-- Two crossings are one shift, whichever comes first. -/
theorem Noise.repeatDo_clock_two_crossings : repeatDo (Noise.clock p) (2 * max p 1) n = n.shift := by
  rw [Nat.two_mul, repeatDo_add]
  cases ht : n.toggle with
  | false =>
    rw [Noise.repeatDo_clock_shifting h ht, Noise.repeatDo_clock_silent rfl rfl, ← h, ← ht]
    rfl
  | true =>
    rw [Noise.repeatDo_clock_silent h ht, Noise.repeatDo_clock_shifting rfl rfl, ← h, ← ht]
    rfl

end Crossing

/-! ## The shift register over many shifts (43_noise.md, periodic and white sequence laws) -/

/-- k periodic shifts rotate the register by k places. -/
theorem repeatDo_shiftRegister_periodic (r : Lfsr) (k : Nat) {j : Nat} (hj : j < 16) :
    (repeatDo (shiftRegister false) k r)[j] = r.getLsbD ((j + k) % 16) := by
  induction k generalizing j with
  | zero => simp [Nat.mod_eq_of_lt hj, hj]
  | succ k ih =>
    rw [repeatDo_succ_last]
    rcases Nat.lt_or_ge j 15 with below | top
    · rw [shiftRegister_getElem_below false _ below, ih (by omega), show j + 1 + k = j + (k + 1) by omega]
    · obtain rfl : j = 15 := by omega
      rw [shiftRegister_getElem_top, feedback_periodic, ih (by omega)]
      congr 1
      omega

/-- Equal registers after a shift were equal before: the bits above bit 0 moved, and the feedback gives bit 0 away. -/
theorem shiftRegister_injective (w : Bool) : Function.Injective (shiftRegister w) := by
  intro r r' h
  have above (k : Nat) (hk : k < 15) : r[k + 1] = r'[k + 1] := by
    rw [← shiftRegister_getElem_below w r hk, ← shiftRegister_getElem_below w r' hk]
    simp only [h]
  have fed : feedback w r = feedback w r' := by
    rw [← shiftRegister_getElem_top, ← shiftRegister_getElem_top]
    simp only [h]
  have bottom : r[0] = r'[0] := by
    cases w with
    | true =>
      have third : r[3] = r'[3] := above 2 (by decide)
      rw [feedback_white, feedback_white, third] at fed
      exact Bool.xor_left_inj.mp fed
    | false => exact fed
  ext k hk
  cases k with
  | zero => exact bottom
  | succ k => exact above k (by omega)

theorem shiftRegister_zero (w : Bool) : shiftRegister w 0 = 0 := by
  revert w; decide

theorem shiftRegister_eq_zero (w : Bool) (r : Lfsr) : shiftRegister w r = 0 ↔ r = 0 :=
  ⟨fun h => shiftRegister_injective w (h.trans (shiftRegister_zero w).symm), fun h => h ▸ shiftRegister_zero w⟩

/-- A fixed register has all bits equal, and in white mode the feedback then makes them 0. -/
theorem shiftRegister_white_fixed {r : Lfsr} (h : shiftRegister true r = r) : r = 0 := by
  have next (k : Nat) (hk : k < 15) : r[k + 1] = r[k] := by
    rw [← shiftRegister_getElem_below true r hk]
    simp only [h]
  have all (k : Nat) (hk : k < 16) : r[k] = r[0] := by
    induction k with
    | zero => rfl
    | succ k ih => exact (next k (by omega)).trans (ih (by omega))
  have top : r[15] = false := by
    conv_lhs => rw [← h]
    rw [shiftRegister_getElem_top, feedback_white, all 3 (by decide), Bool.xor_self]
  ext k hk
  rw [all k hk, ← all 15 (by decide), top]
  simp

end Sys2Proof.Machine

namespace Sys2Proof.Machine

/-! ## The white sequence, counted (43_noise.md, white sequence law)

The orbit of the seed is walked in the kernel, on numbers: one number holds the register and, above its 16 bits, how many
of the shifts so far found bit 0 set. -/

/-- The white shift of a register's number. -/
def whiteShift (r : Nat) : Nat := r / 2 + 32768 * ((r + r / 8) % 2)

/-- One shift of a tally, a register's number with a count above it. -/
def tallyStep (s : Nat) : Nat := whiteShift (s % 65536) + 65536 * (s / 65536 + s % 2)

/-- n shifts of a tally. Each step takes its number apart, so that the kernel evaluates it before the next. -/
def tally : Nat → Nat → Nat
  | 0, s => s
  | n + 1, s =>
    match tallyStep s with
    | 0 => tally n 0
    | m + 1 => tally n (m + 1)

theorem tally_eq_repeatDo (n s : Nat) : tally n s = repeatDo tallyStep n s := by
  induction n generalizing s with
  | zero => rfl
  | succ n ih =>
    rw [tally, repeatDo_succ]
    split <;> rw [ih, ‹tallyStep s = _›]

theorem toNat_feedback_white (r : Lfsr) : (feedback true r).toNat = (r.toNat + r.toNat / 8) % 2 := by
  have bit0 : r[0] = decide (r.toNat % 2 = 1) := Nat.testBit_zero r.toNat
  have bit3 : r[3] = decide (r.toNat / 8 % 2 = 1) := Nat.testBit_eq_decide_div_mod_eq
  rw [feedback_white, bit0, bit3]
  rcases Nat.mod_two_eq_zero_or_one r.toNat with h0 | h0 <;>
    rcases Nat.mod_two_eq_zero_or_one (r.toNat / 8) with h3 | h3 <;> simp [Nat.add_mod, h0, h3]

theorem toNat_shiftRegister_white (r : Lfsr) : (shiftRegister true r).toNat = whiteShift r.toNat := by
  have := r.isLt
  have fed := toNat_feedback_white r
  have bit : (feedback true r).toNat < 2 := Bool.toNat_lt _
  have top : ((BitVec.ofBool (feedback true r)).setWidth 16 <<< 15).toNat = (feedback true r).toNat <<< 15 := by
    revert bit
    cases feedback true r <;> decide
  rw [shiftRegister, BitVec.toNat_or, top, BitVec.toNat_ushiftRight, Nat.shiftRight_eq_div_pow, Nat.or_comm,
    ← Nat.shiftLeft_add_eq_or_of_lt (by omega), Nat.shiftLeft_eq, fed, whiteShift]
  omega

theorem toNat_noisePhaseOf (r : Lfsr) : (noisePhaseOf r).toNat = r.toNat % 2 := by
  have bit0 : r[0] = decide (r.toNat % 2 = 1) := Nat.testBit_zero r.toNat
  rw [noisePhaseOf, bit0]
  rcases Nat.mod_two_eq_zero_or_one r.toNat with h | h <;> simp [h]

/-- How many of the first n shifts take a true phase. -/
def truePhases (n : Nat) (r : Lfsr) : Nat :=
  ((List.range n).filter fun k => noisePhaseOf (repeatDo (shiftRegister true) k r)).length

theorem truePhases_succ (n : Nat) (r : Lfsr) :
    truePhases (n + 1) r = truePhases n r + (noisePhaseOf (repeatDo (shiftRegister true) n r)).toNat := by
  rw [truePhases, truePhases, List.range_succ, List.filter_append, List.length_append]
  cases h : noisePhaseOf (repeatDo (shiftRegister true) n r) <;> simp [h]

theorem tallyStep_eq (r : Lfsr) (k : Nat) :
    tallyStep (r.toNat + 65536 * k) = (shiftRegister true r).toNat + 65536 * (k + (noisePhaseOf r).toNat) := by
  have := r.isLt
  have register : (r.toNat + 65536 * k) % 65536 = r.toNat := by omega
  have count : (r.toNat + 65536 * k) / 65536 = k := by omega
  have parity : (r.toNat + 65536 * k) % 2 = r.toNat % 2 := by omega
  rw [tallyStep, register, count, parity, toNat_shiftRegister_white, toNat_noisePhaseOf]

/-- The tally is the register after n shifts and the count of true phases among them. -/
theorem tally_eq (n : Nat) (r : Lfsr) :
    tally n r.toNat = (repeatDo (shiftRegister true) n r).toNat + 65536 * truePhases n r := by
  rw [tally_eq_repeatDo]
  induction n with
  | zero => simp [truePhases]
  | succ n ih => rw [repeatDo_succ_last, ih, tallyStep_eq, repeatDo_succ_last, truePhases_succ]

/-- 57337 shifts give the seed back, and 28668 of them take a true phase. -/
theorem tally_orbit : tally 57337 0x8000 = 0x8000 + 65536 * 28668 := by
  decide +kernel

/-- 8191 shifts give another register. -/
theorem tally_8191 : tally 8191 0x8000 % 65536 ≠ 0x8000 := by
  decide +kernel

theorem white_orbit :
    repeatDo (shiftRegister true) 57337 0x8000#16 = 0x8000#16 ∧ truePhases 57337 0x8000#16 = 28668 := by
  have walked : 0x8000 + 65536 * 28668 = _ := tally_orbit.symm.trans (tally_eq 57337 0x8000#16)
  have := (repeatDo (shiftRegister true) 57337 0x8000#16).isLt
  refine ⟨BitVec.eq_of_toNat_eq ?_, ?_⟩
  · rw [show (0x8000#16).toNat = 0x8000 from rfl]
    omega
  · omega

theorem white_8191 : repeatDo (shiftRegister true) 8191 0x8000#16 ≠ 0x8000#16 := by
  intro back
  have walked : tally 8191 0x8000 = _ := tally_eq 8191 0x8000#16
  rw [back, show (0x8000#16).toNat = 0x8000 from rfl] at walked
  have := tally_8191
  omega

open Function in
/-- The orbit of the seed is no shorter than 57337 = 7 * 8191: neither 7 nor 8191 shifts give the seed back. -/
theorem white_minimalPeriod : minimalPeriod (shiftRegister true) 0x8000#16 = 57337 := by
  have returns (n : Nat) : repeatDo (shiftRegister true) n 0x8000#16 = 0x8000#16 ↔
      minimalPeriod (shiftRegister true) 0x8000#16 ∣ n := by
    rw [repeatDo_eq_iterate]
    exact isPeriodicPt_iff_minimalPeriod_dvd
  have notSeven : ¬ minimalPeriod (shiftRegister true) 0x8000#16 ∣ 7 := (returns 7).not.mp (by decide)
  have not8191 : ¬ minimalPeriod (shiftRegister true) 0x8000#16 ∣ 8191 := (returns 8191).not.mp white_8191
  have period : minimalPeriod (shiftRegister true) 0x8000#16 ∣ 7 * 8191 := (returns 57337).mp white_orbit.1
  obtain ⟨a, b, ha, hb, product⟩ := (Nat.dvd_mul).mp period
  rw [← product] at notSeven not8191 ⊢
  obtain rfl | rfl := (Nat.dvd_prime (by norm_num)).mp ha
  · exact absurd (by simpa using hb) not8191
  · obtain rfl | rfl := (Nat.dvd_prime (by norm_num)).mp hb
    · exact absurd (by decide) notSeven
    · rfl

theorem white_no_earlier_return {k : Nat} (pos : 0 < k) (h : k < 57337) :
    repeatDo (shiftRegister true) k 0x8000#16 ≠ 0x8000#16 := by
  rw [repeatDo_eq_iterate]
  exact fun e => (Function.IsPeriodicPt.minimalPeriod_le pos e).not_gt (by rwa [white_minimalPeriod])

/-! ## The first channel clock of the reset chip (70_reset_and_hazards.md R233) -/

theorem Chip.reset_sq : ∀ i : Fin 3, Chip.reset.sq[i] = Square.reset := by decide

/-- 16 cycles from reset are one round of channel clocks. -/
theorem advance_sixteen_reset (cfg : Config) : advance cfg 16 Chip.reset = { clockAll cfg Chip.reset with div := 16 } :=
  advance_eq_clocks cfg (by decide) (d := 16) rfl 16

/-- After it the squares are heard, since each of them toggled. -/
theorem outputLevel_square_sixteen {ch : Slot} {i : Fin 3} (h : squareOf ch = some i) (cfg : Config) :
    outputLevel ch (advance cfg 16 Chip.reset) = 0 := by
  have clocked : (advance cfg 16 Chip.reset).sq[i] = Square.reset.clock := by
    rw [advance_sixteen_reset, ← Chip.reset_sq i]
    exact clockAll_sq cfg Chip.reset i
  rw [outputLevel_square _ h, clocked]
  rfl

/-- The noise channel is not: it shifted, and bit 0 of the seed is 0. -/
theorem outputLevel_noise_sixteen (cfg : Config) : outputLevel 3 (advance cfg 16 Chip.reset) = 15 := by
  have clocked : (advance cfg 16 Chip.reset).nz = Noise.reset.clock (noiseReload cfg Chip.reset) := by
    rw [advance_sixteen_reset]
    exact clockAll_nz cfg Chip.reset
  have silent : (advance cfg 16 Chip.reset).nz.phase = false := by
    rw [clocked, Noise.clock_shifting (by decide) rfl]
    rfl
  exact (outputLevel_noise _ squareOf_three).trans (by rw [silent, levelOf_false])

/-! ## The obligations -/

/-- Settles O36: `advance_eq_clocks`, by induction on the cycles. -/
theorem prescalerLaw : Obligations.PrescalerLaw :=
  fun cfg n _ _ low _ hdiv => advance_eq_clocks cfg low hdiv n

/-- Settles O37: two clocks write different channels, and no square clock writes a period register. -/
theorem channelClocksCommute : Obligations.ChannelClocksCommute :=
  fun cfg c i j => ⟨squareClock_comm i j c, squareClock_noiseClock_comm cfg i c⟩

/-- Settles O40: each of four summands is at most the maximum entry. -/
theorem sampleFitsPort : Obligations.SampleFitsPort :=
  fun cfg c wf => ⟨sample_le wf c, (sample_le wf c).trans_lt (lt_two_pow_bitLength (4 * cfg.volTable[15]))⟩

/-- Settles O42: whole intervals, then the rest of one. -/
theorem squareToggleInterval : Obligations.SquareToggleInterval :=
  fun _ n h => Square.repeatDo_clock_reloaded h n

/-- Settles O44: by the counter and the toggle, with the reload value that the mode selects. -/
theorem noiseClockStep : Obligations.NoiseClockStep := by
  intro cfg c p hp
  have reload : noiseReload cfg c = p := by
    obtain ⟨h, rfl⟩ | ⟨h, rfl⟩ := hp
    · exact noiseReload_fixed h
    · exact noiseReload_borrowed h
  rw [noiseClock, reload]
  refine ⟨fun h => ?running, fun h ht => ?shifting, fun h ht => ?silent⟩
  case running => rw [Noise.clock_running (by omega)]
  case shifting => rw [Noise.clock_shifting (by omega) ht]
  case silent => rw [Noise.clock_silent (by omega) ht]

/-- Settles O46: the reload value is the same. -/
theorem noiseBorrowsOnlyThePeriod : Obligations.NoiseBorrowsOnlyThePeriod :=
  fun cfg c q0 q1 q2 h =>
    congrArg (c.nz.clock ·) (noiseReload_congr (c := c) (c' := { c with sq := #v[q0, q1, q2] }) rfl h cfg)

/-- Settles O47: two crossings make one shift, and up to the first only the counter moves. -/
theorem noiseShiftsOncePerTwoPeriods : Obligations.NoiseShiftsOncePerTwoPeriods := by
  intro n p h
  refine ⟨Noise.repeatDo_clock_two_crossings h, fun k hk => ?_⟩
  rw [Noise.repeatDo_clock_running (by omega)]
  exact ⟨rfl, rfl⟩

/-- Settles O48: 16 shifts rotate by 16 places, which is all the way round; the seed's 16 states are listed. -/
theorem periodicSequenceRepeatsAfter16 : Obligations.PeriodicSequenceRepeatsAfter16 := by
  refine ⟨fun r => ?rotation, by decide⟩
  case rotation =>
    ext j hj
    rw [repeatDo_shiftRegister_periodic r 16 hj, Nat.add_mod_right, Nat.mod_eq_of_lt hj, BitVec.getLsbD_eq_getElem]

/-- Settles O49: on a finite type an injective shift is bijective. -/
theorem shiftIsBijectionFixingZero : Obligations.ShiftIsBijectionFixingZero := by
  refine ⟨fun w => ⟨?bijective, shiftRegister_eq_zero w⟩, fun r => ⟨shiftRegister_white_fixed, ?zero⟩⟩
  case bijective => exact Finite.injective_iff_bijective.mp (shiftRegister_injective w)
  case zero => exact fun h => h ▸ shiftRegister_zero true

/-- Settles O50: the walk over the orbit counts its phases, and the orbit is as long as its minimal period. -/
theorem whiteSequenceLength : Obligations.WhiteSequenceLength := by
  obtain ⟨returns, phases⟩ := white_orbit
  exact ⟨returns, fun _ => white_no_earlier_return, phases, by decide, by decide⟩

/-- Settles O18: at reset all four levels are 15, after the first channel clock those of the squares are 0. -/
theorem firstChannelClockMix : Obligations.FirstChannelClockMix := by
  intro cfg
  constructor
  · have silent : ∀ ch, outputLevel ch Chip.reset = 15 := outputLevel_eq_fifteen (by decide) (.inr rfl)
    rw [sample_of_outputLevel_eq silent, tableEntry_fifteen]
  · have first : outputLevel 0 (advance cfg 16 Chip.reset) = 0 := outputLevel_square_sixteen squareOf_zero cfg
    have second : outputLevel 1 (advance cfg 16 Chip.reset) = 0 := outputLevel_square_sixteen squareOf_one cfg
    have third : outputLevel 2 (advance cfg 16 Chip.reset) = 0 := outputLevel_square_sixteen squareOf_two cfg
    have loudest : tableEntry cfg 0 = cfg.volTable[0] := rfl
    rw [sample, first, second, third, outputLevel_noise_sixteen, tableEntry_fifteen, loudest]
    omega

end Sys2Proof.Machine

namespace Sys2Proof

/-- An instruction is one to three bytes long (30_encoding.md R76). -/
theorem Instr.length_bounds (i : Instr) : 1 ≤ i.length ∧ i.length ≤ 3 := by
  cases i <;> simp [Instr.length]

/-- A table word is a command that its bytes decode to, or a write byte that the loader gives to 0x50 (log 8). -/
theorem decodeTableWord_cases {nbits w : Nat} {i : Instr} (h : decodeTableWord nbits w = some i) :
    (∃ rest, decodeCommand (tableBytes nbits w) = .ok (i, rest) ∧ streamBytes nbits w = tableBytes nbits w) ∨
    (∃ b c, i = decodeWrite b ∧ streamBytes nbits w = [0x50, b, c]) := by
  obtain ⟨b, c, d, bytes⟩ : ∃ b c d, tableBytes nbits w = [b, c, d] := ⟨_, _, _, rfl⟩
  cases hdec : decodeCommand (tableBytes nbits w) with
  | ok p =>
    have level : tableLevel nbits w = some .command := by rw [tableLevel, hdec]
    simp only [decodeTableWord, level, decodeAt, hdec, Option.some.injEq] at h
    exact .inl ⟨p.2, by rw [← h], by rw [streamBytes, level]⟩
  | error e =>
    by_cases short : nbits ≤ 8
    · have level : tableLevel nbits w = some .psgWrite := by rw [tableLevel, hdec]; exact if_pos short
      simp only [decodeTableWord, level, bytes, decodeAt, Option.some.injEq] at h
      exact .inr ⟨b, c, h.symm, by rw [streamBytes, level, bytes]; rfl⟩
    · have level : tableLevel nbits w = none := by rw [tableLevel, hdec]; exact if_neg short
      simp [decodeTableWord, level] at h

end Sys2Proof

namespace Sys2Proof.Machine

/-! ## The fetch and the loader (44_command_stream.md R173 to R176; 20_memory.md R53) -/

section Fetch
variable {s : State}

/-- The bytes of a fetched command stand in the sequence. -/
theorem fetch_inside {i : Instr} (wf : s.stream.wf) (hf : fetch s = .ok i) : s.cursor + i.length ≤ s.stream.len := by
  obtain ⟨rest, hdec⟩ := fetch_ok.mp hf
  have fits := decodeCommand_length hdec
  have := i.length_bounds
  rw [Memory.window_length s.stream wf] at fits
  omega

/-- What is fetched is a command, which moves the cursor by its length, one to three bytes. -/
theorem fetch_cursorStep {i : Instr} (hf : fetch s = .ok i) :
    cursorStep i = i.length ∧ 1 ≤ cursorStep i ∧ cursorStep i ≤ 3 := by
  obtain ⟨rest, hdec⟩ := fetch_ok.mp hf
  obtain ⟨command, -, -⟩ := decodeCommand_ok hdec
  have step : cursorStep i = i.length := if_pos command
  rw [step]
  exact ⟨rfl, i.length_bounds⟩

/-- An unknown opcode that the fetch reports is the byte at the cursor. -/
theorem fetch_unknownOpcode {op : Byte}
    (hdec : decodeCommand (s.stream.window s.cursor longestInstr) = .error (.unknownOpcode op)) :
    s.stream.read s.cursor = some op := by
  obtain ⟨rest, head⟩ := decodeCommand_unknownOpcode hdec
  rw [longestInstr, Memory.window] at head
  cases h : s.stream.read s.cursor with
  | none => simp [h] at head
  | some b => simp_all

theorem fetch_none (h : s.stream.read s.cursor = none) : fetch s = .error (.streamOverrun s.cursor) :=
  fetch_error.mpr (.inl ⟨by rw [Memory.window_of_read_none h, decodeCommand_nil], rfl⟩)

theorem fetch_psg_cut (hop : s.stream.read s.cursor = some 0x50#8) (h : s.stream.read (s.cursor + 1) = none) :
    fetch s = .error (.streamOverrun (s.cursor + 1)) := by
  refine fetch_error.mpr (.inr (.inr ⟨?_, rfl⟩))
  rw [longestInstr, Memory.window_succ hop, Memory.window_of_read_none h, decodeCommand_psg, decodePsg]

/-- Either operand byte of 0x61 may be the missing one. -/
theorem fetch_wait_cut (hop : s.stream.read s.cursor = some 0x61#8)
    (h : s.stream.read (s.cursor + 1) = none ∨ s.stream.read (s.cursor + 2) = none) :
    fetch s = .error (.streamOverrun (s.cursor + 1)) := by
  refine fetch_error.mpr (.inr (.inr ⟨?_, rfl⟩))
  rw [longestInstr, Memory.window_succ hop, decodeCommand_wait]
  cases hlo : s.stream.read (s.cursor + 1) with
  | none => rw [Memory.window_of_read_none hlo]; rfl
  | some lo =>
    have hhi : s.stream.read (s.cursor + 1 + 1) = none := h.resolve_left (by simp [hlo])
    rw [Memory.window_succ hlo, Memory.window_of_read_none hhi]
    rfl

end Fetch

section Loader
variable (s : State) (nbits w : Nat)

theorem withFetchWord_ready : Ready (s.withFetchWord nbits w) :=
  ⟨rfl, Nat.lt_of_lt_of_le (Nat.lt_succ_self s.count) (le_max_right _ _)⟩

/-- What the loader placed is what the next fetch reads, up to the longest instruction. -/
theorem fetch_withFetchWord {i : Instr} {bs rest : List Byte} (hbs : streamBytes nbits w = bs) (length : bs.length = 3)
    (hdec : decodeCommand bs = .ok (i, rest)) : fetch (s.withFetchWord nbits w) = .ok i := by
  refine fetch_ok.mpr ⟨rest, ?_⟩
  have window : (s.stream.place s.cursor bs).window s.cursor 3 = bs := by
    rw [Memory.window_place _ _ _ _ length.ge, ← length, List.take_length]
  rw [State.withFetchWord, longestInstr, hbs, window, hdec]

end Loader

/-! ## A step of a running interpreter (R173) -/

/-- Everything it can be: it ends the run and changes the status alone, or it runs a command that lets the run go on. -/
theorem step_running_cases {s t : State} (running : s.status = .running) (h : step s = .next t) :
    (∃ st, st.isFinal = true ∧ t = { s with status := st }) ∨
    (∃ i, fetch s = .ok i ∧ i ≠ .endMark ∧ exec i s = .next t ∧ t.status = .running) := by
  rcases step_cases h with ⟨e, -⟩ | ⟨e, -⟩ | ⟨-, -, rfl⟩ | ⟨-, -, i, hf, he⟩ | ⟨-, -, e, -, rfl⟩
  · rw [running] at e; cases e
  · rw [running] at e; cases e
  · exact .inl ⟨.complete, rfl, rfl⟩
  · by_cases hend : i = .endMark
    · subst hend
      cases he
      exact .inl ⟨.endMarker, rfl, rfl⟩
    · exact .inr ⟨i, hf, hend, he, (exec_cursor he hend).2.trans running⟩
  · exact .inl ⟨.fault e, rfl, rfl⟩

/-- It never stops without an answer. -/
theorem step_running_next {s : State} (running : s.status = .running) : ∃ t, step s = .next t := by
  rw [step_running running]
  rcases Nat.lt_or_ge s.count s.total with below | done
  · rw [commandStep_below below]
    cases fetch s with
    | ok i => exact exec_next i s
    | error e => exact ⟨_, rfl⟩
  · exact ⟨_, commandStep_done done⟩

/-- A command that is no end mark appends samples, and the chip runs the cycles of just these samples. -/
theorem exec_samples {i : Instr} {s t : State} (h : exec i s = .next t) :
    ∃ xs : List Nat, t.buf = s.buf ++ xs ∧ t.count = s.count + xs.length ∧
      t.chip.div = (advance s.cfg (xs.length * s.tps) s.chip).div := by
  rcases exec_cases h with ⟨n, -, rfl⟩ | ⟨-, rfl⟩ | ⟨-, -, ch, vol, d, w, -, rfl⟩
  · rw [render_clamped]
    exact ⟨_, rfl, by simp [rendered], by simp [rendered]⟩
  · exact ⟨[], by simp [advance]⟩
  · exact ⟨[], by simp [advance]⟩

/-! ## The prescaler and chip time (44_command_stream.md section 3) -/

theorem advance_div_of_chipTime {c : Chip} {a : Nat} (h : c.div = 16 - (a % 16 : Nat)) (cfg : Config) (n : Nat) :
    (advance cfg n c).div = 16 - ((a + n) % 16 : Nat) := by
  have law := advance_eq_clocks cfg (d := 16 - a % 16) (c := c) (by omega) (by omega) n
  rw [law]
  simp only [prescalerAfter]
  split_ifs <;> omega

end Sys2Proof.Machine

namespace Sys2Proof.Machine

/-! ## The chip's invariant (10_state.md R24, R31, R36; 43_noise.md R158) -/

theorem Square.clock_counter_range {q : Square} (high : q.counter ≤ 1023) :
    0 ≤ q.clock.counter ∧ q.clock.counter ≤ 1023 := by
  have := q.periodReload.isLt
  by_cases h : q.counter ≤ 1
  · rw [Square.clock_crossing h]
    dsimp only
    omega
  · rw [Square.clock_running (by omega)]
    dsimp only
    omega

theorem Noise.clock_counter_range {n : Noise} {p bound : Nat} (high : n.counter ≤ bound) (hp : p ≤ bound) :
    0 ≤ (n.clock p).counter ∧ (n.clock p).counter ≤ bound := by
  rcases n.clock_cases p with ⟨h, e⟩ | ⟨h, -, e⟩ | ⟨h, -, e⟩ <;> rw [e] <;> dsimp only <;> omega

theorem Noise.clock_lfsr_nonzero {n : Noise} (h : n.lfsr ≠ 0) (p : Nat) : (n.clock p).lfsr ≠ 0 := by
  rcases n.clock_cases p with ⟨-, e⟩ | ⟨-, -, e⟩ | ⟨-, -, e⟩ <;> rw [e]
  · exact h
  · exact (shiftRegister_eq_zero n.white n.lfsr).not.mpr h
  · exact h

/-- The chip's invariant speaks of the channels and of the prescaler, so the two change apart. -/
theorem Chip.Inv.clockAll {cfg : Config} {c : Chip} (h : c.Inv cfg) {k : Int} (low : 1 ≤ k) (high : k ≤ 16) :
    Chip.Inv cfg { clockAll cfg c with div := k } where
  div_low := low
  div_high := high
  square_low i := by
    have := (Square.clock_counter_range (h.square_high i)).1
    rwa [← clockAll_sq cfg c i] at this
  square_high i := by
    have := (Square.clock_counter_range (h.square_high i)).2
    rwa [← clockAll_sq cfg c i] at this
  noise_low := by
    have := (Noise.clock_counter_range h.noise_high (noiseReload_le cfg c)).1
    rwa [← clockAll_nz] at this
  noise_high := by
    have := (Noise.clock_counter_range h.noise_high (noiseReload_le cfg c)).2
    rwa [← clockAll_nz] at this
  lfsr_nonzero := by
    have := Noise.clock_lfsr_nonzero h.lfsr_nonzero (noiseReload cfg c)
    rwa [← clockAll_nz] at this

theorem Chip.Inv.chipCycle {cfg : Config} {c : Chip} (h : c.Inv cfg) : (chipCycle cfg c).Inv cfg := by
  rcases chipCycle_cases cfg c with ⟨-, e⟩ | ⟨counting, e⟩ <;> rw [e]
  · exact h.clockAll (by decide) (by decide)
  · have := h.div_high
    exact { h with div_low := by dsimp only; omega, div_high := by dsimp only; omega }

theorem Chip.Inv.advance {cfg : Config} {c : Chip} (h : c.Inv cfg) (n : Nat) : (advance cfg n c).Inv cfg :=
  repeatDo_keeps _ (Chip.Inv cfg) (fun _ => Chip.Inv.chipCycle) n c h

theorem Chip.Inv.registerWrite {cfg : Config} {c : Chip} (h : c.Inv cfg) (ch : Slot) (vol : Bool) (d : WriteData) (w : Bool) :
    (registerWrite ch vol d w c).Inv cfg where
  div_low := by rw [registerWrite_div]; exact h.div_low
  div_high := by rw [registerWrite_div]; exact h.div_high
  square_low i := by rw [registerWrite_squareCounter]; exact h.square_low i
  square_high i := by rw [registerWrite_squareCounter]; exact h.square_high i
  noise_low := by rw [registerWrite_noiseCounter]; exact h.noise_low
  noise_high := by rw [registerWrite_noiseCounter]; exact h.noise_high
  lfsr_nonzero := by rw [registerWrite_lfsr]; exact h.lfsr_nonzero

theorem Chip.reset_inv (cfg : Config) : Chip.reset.Inv cfg where
  div_low := by decide
  div_high := by decide
  square_low := by decide
  square_high := by decide
  noise_low := by decide
  noise_high := Int.natCast_nonneg _
  lfsr_nonzero := by decide

/-! ## The machine's invariant, its data and its status apart -/

/-- The clauses of `Inv` that hold in every status. -/
structure DataInv (s : State) : Prop where
  params : s.cfg.wf
  chip : s.chip.Inv s.cfg
  stream : s.stream.wf
  count_eq : s.count = s.buf.length
  count_le : s.count ≤ s.total
  samples : ∀ v ∈ s.buf, v ≤ 4 * s.cfg.volTable[15]

/-- The clause of `Inv` for the status that the machine is in. -/
def StatusInv (s : State) : Prop :=
  match s.status with
  | .awaitingSetup => s.count = 0
  | .running => inRange s = true ∧ s.clock ≠ 0 ∧ s.tps = s.clock / s.cfg.outputRate ∧ s.offset ≤ s.cursor ∧
      s.cursor ≤ max s.offset s.stream.len
  | .complete => s.count = s.total
  | .fault .zeroClock => s.clock = 0 ∧ s.count = 0
  | .fault (.unknownOpcode op pos) => pos = s.cursor ∧ s.stream.read pos = some op
  | .fault (.streamOverrun _) => True
  | .endMarker => True

theorem Inv.data {s : State} (h : Inv s) : DataInv s :=
  ⟨h.params, h.chip, h.stream, h.count_eq, h.count_le, h.samples⟩

theorem inv_of_data {s : State} (d : DataInv s) (h : StatusInv s) : Inv s where
  params := d.params
  chip := d.chip
  stream := d.stream
  count_eq := d.count_eq
  count_le := d.count_le
  samples := d.samples
  unstarted e := by simpa only [StatusInv, e] using h
  started e := by simpa only [StatusInv, e] using h
  complete e := by simpa only [StatusInv, e] using h
  zeroClock e := by simpa only [StatusInv, e] using h
  unknownOpcode op pos e := by simpa only [StatusInv, e] using h

namespace DataInv
variable {s : State}

theorem withStatus (d : DataInv s) (st : RunStatus) : DataInv { s with status := st } :=
  ⟨d.params, d.chip, d.stream, d.count_eq, d.count_le, d.samples⟩

theorem skip (d : DataInv s) (n : Nat) : DataInv (s.skip n) :=
  ⟨d.params, d.chip, d.stream, d.count_eq, d.count_le, d.samples⟩

theorem onChip (d : DataInv s) {f : Chip → Chip} (h : (f s.chip).Inv s.cfg) : DataInv (s.onChip f) :=
  ⟨d.params, h, d.stream, d.count_eq, d.count_le, d.samples⟩

/-- A sample within the bound may be emitted below the total. -/
theorem emit (d : DataInv s) (below : s.count < s.total) {v : Nat} (hv : v ≤ 4 * s.cfg.volTable[15]) : DataInv (s.emit v) where
  params := d.params
  chip := d.chip
  stream := d.stream
  count_eq := by simp [d.count_eq]
  count_le := below
  samples u hu := by
    rcases List.mem_append.mp hu with old | new
    · exact d.samples u old
    · exact List.mem_singleton.mp new ▸ hv

theorem render (d : DataInv s) (n : Nat) : DataInv (render n s) :=
  render_keeps DataInv (fun _ da below => (da.onChip (da.chip.advance _)).emit below (sample_le da.params _)) n s d

theorem exec (d : DataInv s) {i : Instr} {t : State} (h : exec i s = .next t) : DataInv t := by
  rcases exec_cases h with ⟨n, -, rfl⟩ | ⟨-, rfl⟩ | ⟨-, -, ch, vol, e, w, -, rfl⟩
  · exact (d.render n).skip _
  · exact d.withStatus _
  · exact (d.onChip (d.chip.registerWrite ch vol e w)).skip _

theorem startRun (d : DataInv s) : DataInv (startRun s) where
  params := d.params
  chip := Chip.reset_inv _
  stream := d.stream
  count_eq := rfl
  count_le := Nat.zero_le _
  samples _ hv := absurd hv List.not_mem_nil

end DataInv

/-- A command that lets the run go on keeps the inputs and leaves the cursor within the sequence. -/
theorem statusInv_exec {s t : State} {i : Instr} (wf : s.stream.wf) (running : s.status = .running) (h : StatusInv s)
    (hf : fetch s = .ok i) (hend : i ≠ .endMark) (he : exec i s = .next t) : StatusInv t := by
  obtain ⟨-, stream, total, tps, clock, offset, cfg⟩ := execLeavesInputsAlone i s t he
  obtain ⟨cursor, status⟩ := exec_cursor he hend
  obtain ⟨step, -, -⟩ := fetch_cursorStep hf
  have inside := fetch_inside wf hf
  simp only [StatusInv, running] at h
  obtain ⟨range, nonzero, ticks, low, high⟩ := h
  simp only [StatusInv, status, running]
  rw [inRange, stream, total, clock, offset, tps, cfg, cursor, step]
  exact ⟨range, nonzero, ticks, by omega, by omega⟩

/-- Raising a fetch's error records what the fetch found. -/
theorem statusInv_raise {s : State} {e : RunError} (hf : fetch s = .error e) : StatusInv (s.raise e) := by
  obtain ⟨-, rfl⟩ | ⟨op, hdec, rfl⟩ | ⟨-, rfl⟩ := fetch_error.mp hf
  · trivial
  · exact ⟨rfl, fetch_unknownOpcode hdec⟩
  · trivial

theorem Inv.status {s : State} (h : Inv s) : StatusInv s := by
  unfold StatusInv
  split
  · exact h.unstarted ‹_›
  · exact h.started ‹_›
  · exact h.complete ‹_›
  · exact h.zeroClock ‹_›
  · exact h.unknownOpcode _ _ ‹_›
  · trivial
  · trivial

/-- Settles O53: by everything a step can be; the data and the status keep their clauses apart. -/
theorem stepKeepsInvariant : Obligations.StepKeepsInvariant := by
  intro s t inv h
  rcases step_cases h with ⟨st, -, clock, rfl⟩ | ⟨-, range, clock, rfl⟩ | ⟨-, full, rfl⟩ | ⟨running, -, i, hf, he⟩ |
    ⟨-, -, e, hf, rfl⟩
  · exact inv_of_data (inv.data.withStatus _) ⟨clock, inv.unstarted st⟩
  · exact inv_of_data inv.data.startRun ⟨range, clock, rfl, le_rfl, le_max_left _ _⟩
  · exact inv_of_data (inv.data.withStatus _) (Nat.le_antisymm inv.count_le full)
  · by_cases hend : i = .endMark
    · subst hend
      cases he
      exact inv_of_data (inv.data.withStatus _) trivial
    · exact inv_of_data (inv.data.exec he) (statusInv_exec inv.stream running inv.status hf hend he)
  · exact inv_of_data (inv.data.withStatus _) (statusInv_raise hf)

end Sys2Proof.Machine

namespace Sys2Proof.Machine

/-! ## Runs (44_command_stream.md R174; 60_exceptions.md R209) -/

theorem runFor_final {s : State} (h : s.status.isFinal = true) (n : Nat) : runFor n s = .next s := by
  cases n with
  | zero => rfl
  | succ n => exact if_pos h

theorem runFor_step {s t : State} (h : s.status.isFinal = false) (hs : step s = .next t) (n : Nat) :
    runFor (n + 1) s = runFor n t := by
  rw [runFor, h, hs]
  rfl

/-- What every step keeps, a run keeps. -/
theorem runFor_keeps {P : State → Prop} (keeps : ∀ s t, P s → step s = .next t → P t) {n : Nat} {s t : State} (hs : P s)
    (h : runFor n s = .next t) : P t := by
  induction n generalizing s with
  | zero => cases h; exact hs
  | succ n ih =>
    cases hfin : s.status.isFinal with
    | true =>
      rw [runFor_final hfin] at h
      cases h
      exact hs
    | false =>
      rw [runFor, hfin] at h
      cases hstep : step s with
      | next u =>
        rw [hstep] at h
        exact ih (keeps s u hs hstep) h
      | fault r => rw [hstep] at h; cases h
      | refused r => rw [hstep] at h; cases h

/-- Each command that lets the run go on uses up a byte at least, so that the bytes left bound the steps left. -/
theorem runFor_running {n : Nat} {s : State} (wf : s.stream.wf) (running : s.status = .running)
    (h : s.stream.len - s.cursor < n) : ∃ t, runFor n s = .next t ∧ t.status.isFinal = true := by
  induction n generalizing s with
  | zero => exact absurd h (Nat.not_lt_zero _)
  | succ n ih =>
    obtain ⟨u, hstep⟩ := step_running_next running
    rw [runFor_step (by rw [running]; rfl) hstep]
    rcases step_running_cases running hstep with ⟨st, final, rfl⟩ | ⟨i, hf, hend, he, goesOn⟩
    · exact ⟨_, runFor_final final n, final⟩
    · obtain ⟨-, stream, -⟩ := execLeavesInputsAlone i s u he
      obtain ⟨cursor, -⟩ := exec_cursor he hend
      obtain ⟨step, atLeastOne, -⟩ := fetch_cursorStep hf
      have inside := fetch_inside wf hf
      refine ih (by rw [stream]; exact wf) goesOn ?_
      rw [stream, cursor]
      omega

/-! ## The obligations: one step -/

/-- Settles O7: the decoded command is the fetched one. -/
theorem stepRunsDecodedCommand : Obligations.StepRunsDecodedCommand :=
  fun _ _ rest hr hdec => step_of_fetch hr (fetch_ok.mpr ⟨rest, hdec⟩)

/-- Settles O8: a command is fetched as it is, a write byte as the operand of PSG. -/
theorem stepRunsLoadedTableWord : Obligations.StepRunsLoadedTableWord := by
  intro s nbits w i h
  have ready := withFetchWord_ready s nbits w
  rcases decodeTableWord_cases h with ⟨rest, hdec, bytes⟩ | ⟨b, c, rfl, bytes⟩
  · obtain ⟨level, -, -⟩ := decodeCommand_ok hdec
    refine ⟨fun _ => step_of_fetch ready (fetch_withFetchWord s nbits w bytes rfl hdec), fun form => ?_⟩
    rw [level] at form
    cases form
  · obtain ⟨level, -, -⟩ := decodeWrite_spec b
    refine ⟨fun command => ?_, fun _ => ⟨_, exec_decodeWrite b _, ?_⟩⟩
    · rw [level] at command
      cases command
    · rw [step_of_fetch ready (fetch_withFetchWord s nbits w bytes rfl (decodeCommand_psg [b, c])), exec_psg]
      rfl

/-- Settles O9: the total is tested before the fetch. -/
theorem totalReachedCompletes : Obligations.TotalReachedCompletes :=
  fun _ running full => (step_running running).trans (commandStep_done full)

/-- Settles O11: by the byte that is missing; raising the fetch's error sets the status alone. -/
theorem missingByteEntersOverrun : Obligations.MissingByteEntersOverrun :=
  fun _ hr => ⟨fun h => step_of_fetch_error hr (fetch_none h), fun hop h => step_of_fetch_error hr (fetch_psg_cut hop h),
    fun hop h => step_of_fetch_error hr (fetch_wait_cut hop h)⟩

/-- Settles O12: by the final status. -/
theorem finalStatusHasNoSuccessor : Obligations.FinalStatusHasNoSuccessor := by
  rintro s (h | h | ⟨e, h⟩) <;> rw [step, h]

/-- Settles O13: by the status. -/
theorem onlyNormalEndsDeliver : Obligations.OnlyNormalEndsDeliver := by
  intro s b
  cases h : s.status <;> simp [delivered, h, eq_comm]

/-- Four distinct codes tell the four classes apart. -/
theorem ExitCodes.of_injective {e : ExitCodes} (h : [e.container, e.clock, e.opcode, e.overrun].Nodup) :
    Function.Injective e.of := by
  have listed (c : ErrorClass) : c ∈ [.container, .clock, .opcode, .overrun] := by cases c <;> decide
  have codes : ([.container, .clock, .opcode, .overrun].map e.of).Nodup := h
  exact fun c d hcd => List.inj_on_of_nodup_map codes (listed c) (listed d) hcd

/-- Settles O14: the codes of one configuration are distinct. -/
theorem errorClassesHaveDistinctExitCodes : Obligations.ErrorClassesHaveDistinctExitCodes := by
  intro s t e f wf cfg hs ht classes
  obtain ⟨-, -, distinct⟩ := wf
  have codes := (ExitCodes.of_injective distinct).ne classes
  simpa [exitCode, hs, ht, cfg] using codes

/-! ## The obligations: set-up and reset -/

theorem inRange_iff (s : State) : inRange s = true ↔
    s.stream.len < 2 ^ 31 ∧ s.offset < 2 ^ 31 ∧ s.total < 2 ^ 31 ∧ s.clock < 2 ^ 31 := by
  simp only [inRange, Bool.and_eq_true, decide_eq_true_eq, and_assoc]
  rfl

/-- Settles O15: the range is tested first, then the clock. -/
theorem setupRefusesThenChecksClock : Obligations.SetupRefusesThenChecksClock := by
  intro s h
  rw [step_awaitingSetup h, setup]
  refine ⟨fun out => ?range, fun len offset total clock => ?clock⟩
  case range =>
    have outside : ¬ inRange s = true := by
      rw [inRange_iff]
      omega
    rw [if_neg outside]
  case clock =>
    have inside : inRange s = true := (inRange_iff s).mpr ⟨len, offset, total, by rw [clock]; decide⟩
    rw [if_pos inside, if_pos clock]
    rfl

/-- Settles O16: both tests pass, and the run starts. -/
theorem setupStartsRun : Obligations.SetupStartsRun := by
  intro s h len offset total clock nonzero
  rw [step_awaitingSetup h, setup, if_pos ((inRange_iff s).mpr ⟨len, offset, total, clock⟩), if_neg nonzero]
  rfl

/-- Settles O17: the values of reset, each read off its definition. -/
theorem resetState : Obligations.ResetState :=
  ⟨Chip.reset_sq, rfl, rfl, rfl, rfl, rfl, rfl, rfl, rfl, rfl⟩

/-! ## The obligations: the whole machine -/

/-- The data of a machine without samples, whose chip is reset. -/
theorem dataInv_unstarted {s : State} (params : s.cfg.wf) (stream : s.stream.wf) (chip : s.chip = Chip.reset)
    (buf : s.buf = []) (count : s.count = 0) : DataInv s where
  params := params
  chip := chip ▸ Chip.reset_inv s.cfg
  stream := stream
  count_eq := by rw [count, buf]; rfl
  count_le := count ▸ Nat.zero_le _
  samples v hv := by rw [buf] at hv; cases hv

/-- Settles O51: the data of reset, and its status Running. -/
theorem invariantHoldsAtReset : Obligations.InvariantHoldsAtReset :=
  inv_of_data (dataInv_unstarted (by decide) State.reset_stream_wf rfl rfl rfl)
    ⟨by decide, by decide, by decide, by decide, by decide⟩

/-- Settles O52: the data of reset with the log's bytes, and no sample before the set-up. -/
theorem invariantHoldsAtLoad : Obligations.InvariantHoldsAtLoad :=
  fun _ inp wf => inv_of_data (dataInv_unstarted wf (Memory.ofBytes_wf inp.bytes) rfl rfl rfl) rfl

/-- Settles O54: only a command could, and none does. -/
theorem stepLeavesInputsAlone : Obligations.StepLeavesInputsAlone := by
  intro s t h
  rcases step_cases h with ⟨-, -, -, rfl⟩ | ⟨st, -, -, rfl⟩ | ⟨-, -, rfl⟩ | ⟨-, -, i, -, he⟩ | ⟨-, -, e, -, rfl⟩
  · simp
  · simp [st]
  · simp
  · obtain ⟨bytes, stream, total, tps, clock, offset, cfg⟩ := execLeavesInputsAlone i s t he
    exact ⟨bytes, stream, total, clock, offset, cfg, fun _ => tps⟩
  · simp

/-- Settles O55: an end appends nothing, a command what it renders. -/
theorem bufferIsAppendOnly : Obligations.BufferIsAppendOnly := by
  intro s t running h
  rcases step_running_cases running h with ⟨st, -, rfl⟩ | ⟨i, -, -, he, -⟩
  · exact ⟨[], by simp⟩
  · obtain ⟨xs, buf, count, -⟩ := exec_samples he
    exact ⟨xs, buf, count⟩

/-- Settles O56: an end leaves the cursor, a command moves it by its length. -/
theorem cursorIsMonotone : Obligations.CursorIsMonotone := by
  intro s t running h
  rcases step_running_cases running h with ⟨st, final, rfl⟩ | ⟨i, hf, hend, he, -⟩
  · refine ⟨le_rfl, Nat.le_add_right _ _, fun (goesOn : st = .running) => ?_⟩
    rw [goesOn] at final
    cases final
  · obtain ⟨cursor, -⟩ := exec_cursor he hend
    obtain ⟨-, low, high⟩ := fetch_cursorStep hf
    rw [cursor]
    omega

/-- Settles O57: a command renders samples of tps cycles each, and an end renders none. -/
theorem prescalerTracksChipTime : Obligations.PrescalerTracksChipTime := by
  refine ⟨fun s t awaiting h started => ?start, fun s t running time h => ?step⟩
  case start =>
    rcases step_cases h with ⟨-, -, -, rfl⟩ | ⟨-, -, -, rfl⟩ | ⟨e, -⟩ | ⟨e, -⟩ | ⟨e, -⟩
    · cases started
    · rw [startRun_count, Nat.zero_mul]
      rfl
    all_goals
      rw [awaiting] at e
      cases e
  case step =>
    rcases step_running_cases running h with ⟨st, -, rfl⟩ | ⟨i, -, -, he, -⟩
    · exact time
    · obtain ⟨xs, -, count, cycles⟩ := exec_samples he
      obtain ⟨-, -, -, tps, -⟩ := execLeavesInputsAlone i s t he
      rw [cycles, count, tps, Nat.add_mul]
      exact advance_div_of_chipTime time s.cfg (xs.length * s.tps)

/-- Settles O58: `runFor_running`, by induction on the bytes left. -/
theorem runTerminates : Obligations.RunTerminates :=
  fun _ wf running => runFor_running wf running (Nat.lt_succ_self _)

/-- Settles O59: the set-up starts the run, the run terminates, and along it the invariant and the inputs are kept. -/
theorem loadedRunEndsWithinTotal : Obligations.LoadedRunEndsWithinTotal := by
  intro cfg inp wf len offset total clock nonzero
  have length : (State.load cfg inp).stream.len = inp.bytes.length := Memory.len_ofBytes inp.bytes
  have start : step (State.load cfg inp) = .next (startRun (State.load cfg inp)) :=
    setupStartsRun _ rfl (length ▸ len) offset total clock nonzero
  have loaded : Inv (State.load cfg inp) := invariantHoldsAtLoad cfg inp wf
  have left : (startRun (State.load cfg inp)).stream.len - inp.offset < inp.bytes.length - inp.offset + 1 := by
    rw [startRun_stream, length]
    exact Nat.lt_succ_self _
  obtain ⟨t, hrun, final⟩ := runFor_running (s := startRun (State.load cfg inp)) loaded.stream rfl left
  rw [← runFor_step rfl start] at hrun
  have inv : Inv t := runFor_keeps stepKeepsInvariant loaded hrun
  have inputs : t.stream = .ofBytes inp.bytes ∧ t.total = inp.total ∧ t.cfg = cfg :=
    runFor_keeps (P := fun s => s.stream = .ofBytes inp.bytes ∧ s.total = inp.total ∧ s.cfg = cfg)
      (fun u v hu h => by
        obtain ⟨-, stream, total, -, -, cfg, -⟩ := stepLeavesInputsAlone u v h
        rwa [stream, total, cfg]) ⟨rfl, rfl, rfl⟩ hrun
  obtain ⟨stream, htotal, hcfg⟩ := inputs
  refine ⟨t, hrun, final, inv.count_eq.symm, htotal ▸ inv.count_le, fun complete => ?_, hcfg ▸ inv.samples, ?_⟩
  · rw [← inv.count_eq, inv.complete complete, htotal]
  · rw [stream, Memory.toBytes_ofBytes]

end Sys2Proof.Machine
